-- ==== Sys2Proof/Word.lean ====
section
/-! DEFINITION. The words of the engine: 64-bit registers (10_state R21) and the bytes a word is held as (20_memory R65). -/

namespace Sys2Proof

/-- A register, a command word, a message entry: 64 bits (10_state R21, 30_encoding R90). -/
abbrev Word := BitVec 64

/-- One byte of the message buffer. -/
abbrev Byte := BitVec 8

end Sys2Proof
end

