-- ==== Sys2Proof/Syntax.lean ====
section
/-! DEFINITION. The commands (one constructor per row of spec/opcode_table.json), the register names, the host's transactions
and program lines, and the events of a run. -/

namespace Sys2Proof

/-- The two units (00_scope R2): `a` the block cipher engine, `b` the public-key engine. -/
inductive UnitId where
  | a
  | b
deriving DecidableEq, Repr, Inhabited

/-- The 29 commands, one per row of spec/opcode_table.json (30_encoding R92, R93). A command's word holds no operand. -/
inductive Instr where
  | permP10
  | permP8
  | permIP
  | permFP
  | permEP
  | permP4
  | rotl5_0
  | rotl5_1
  | rotl5_2
  | rotl5_3
  | rotl5_4
  | sboxS0
  | sboxS1
  | swap
  | feistel
  | fk
  | subkeys
  | encrypt
  | decrypt
  | isprime
  | gencand
  | genprime
  | gcd
  | egcd
  | modinv
  | modexp
  | keygen
  | encmsg
  | decmsg
deriving DecidableEq, Repr

/-- The named registers of the register table (10_state section 2). -/
inductive Reg where
  | aCmd
  | aStatus
  | aKey
  | aSrc
  | aSubkey
  | aRes
  | aK1
  | aK2
  | bCmd
  | bStatus
  | bX
  | bY
  | bM
  | bL
  | bRes
  | bRes2
  | bRes3
  | bMsgLen
  | bN
  | bE
  | bD
  | bP
  | bQ
  | bPhi
  | bAttempts
  | info
deriving DecidableEq, Repr

/-- How the host may access a register (10_state R21, R31): `status` is read-only but for the bit that clears OVR. -/
inductive Access where
  | rw
  | ro
  | cmd
  | status
deriving DecidableEq, Repr

/-- What a mapped offset names: a register or an entry of the message buffer (20_memory R61). -/
inductive Target where
  | reg (r : Reg)
  | msg (i : Nat)
deriving DecidableEq, Repr

/-- The widths a bus master can try; only `w64` is carried (20_memory R62). -/
inductive Width where
  | w8
  | w16
  | w32
  | w64
  | burst
deriving DecidableEq, Repr

/-- A host transaction at a bus address (20_memory R62). -/
inductive Transaction where
  | read (addr : Nat) (width : Width)
  | write (addr : Nat) (width : Width) (value : Word)
deriving DecidableEq, Repr

/-- What the host does in one turn: a transaction, or one round of the two lines that test the value read (30_encoding R104):
`wait` polls STATUS until BUSY = 0, `check` reads STATUS and stops the program when ERR = 1. -/
inductive HostOp where
  | bus (t : Transaction)
  | wait (u : UnitId)
  | check (u : UnitId)
deriving DecidableEq, Repr

/-- A line of a host program (30_encoding R101, R102, R104), and `bus` for a transaction the notation cannot write. -/
inductive HostLine where
  | wr (r : Reg) (value : Word)
  | rd (r : Reg)
  | wrmsg (i : Nat) (value : Word)
  | rdmsg (i : Nat)
  | command (i : Instr)
  | wait (u : UnitId)
  | run (i : Instr)
  | clrovr (u : UnitId)
  | check (u : UnitId)
  | loadmsg (values : List Word)
  | bus (t : Transaction)
deriving DecidableEq, Repr

/-- One event of a run (20_memory R72). A turn of Unit B carries what the entropy input gives at that step (00_scope R12). -/
inductive Turn where
  | host
  | unitA
  | unitB (entropy : Word)
  | reset
deriving DecidableEq, Repr, Inhabited

end Sys2Proof
end

