-- ==== Sys2Proof/Config.lean ====
section
/-! DEFINITION. What an implementation fixes for the life of the block (10_state R53), with the spec's defaults, and the values
the spec leaves free. -/

namespace Sys2Proof

/-- A permutation table with `m` entries over `n` inputs (00_scope R9). The entry `t` of the spec (1-based) is held as `t - 1`,
as in the source's output[i] = input[table[i]-1] (40_block_cipher R120). -/
abbrev PermTable (n m : Nat) := Vector (Fin n) m

/-- An S-box: 4 rows of 4 entries, each 0..3 (00_scope R9). -/
abbrev SBox := Vector (Vector (BitVec 2) 4) 4

/-- A selection function from a 4-bit group to (row, column), as its table over 0..15 (00_scope R10). -/
abbrev Selection := Vector (Fin 4 × Fin 4) 16

/-- The parameters of 00_scope R5 to R11. They are data of the machine that no command and no reset writes (10_state R53). -/
structure Config where
  /-- PK_WIDTH (R5). -/
  pkWidth : Nat
  /-- MSG_DEPTH (R6). -/
  msgDepth : Nat
  /-- PRIME_ATTEMPT_LIMIT, 0 for unbounded (R7). -/
  attemptLimit : Nat
  /-- RANGE_CHECK (R8). -/
  rangeCheck : Bool
  /-- ENGINE_BASE (R11). -/
  engineBase : Nat
  tblP10 : PermTable 10 10
  tblP8 : PermTable 10 8
  tblIP : PermTable 8 8
  tblFP : PermTable 8 8
  tblEP : PermTable 4 8
  tblP4 : PermTable 4 4
  tblS0 : SBox
  tblS1 : SBox
  /-- S1_SELECT (R10). -/
  s1Select : Selection
deriving DecidableEq, Repr

/-- The default configuration: 00_scope R5 to R8 and R10, the tables of 40_block_cipher R121 (each entry less 1).
DESIGN CHOICE (log 2), unsafe: ENGINE_BASE is OPEN (R11); the default here is 0. -/
def Config.default : Config where
  pkWidth := 64
  msgDepth := 256
  attemptLimit := 0
  rangeCheck := false
  engineBase := 0
  tblP10 := #v[2, 4, 1, 6, 3, 9, 0, 8, 7, 5]
  tblP8 := #v[5, 2, 6, 3, 7, 4, 9, 8]
  tblIP := #v[1, 5, 2, 0, 3, 7, 4, 6]
  tblFP := #v[3, 0, 2, 4, 6, 1, 7, 5]
  tblEP := #v[3, 0, 1, 2, 1, 2, 3, 0]
  tblP4 := #v[1, 3, 2, 0]
  tblS0 := #v[#v[1, 0, 3, 2], #v[3, 2, 1, 0], #v[0, 2, 1, 3], #v[3, 1, 3, 2]]
  tblS1 := #v[#v[0, 1, 2, 3], #v[2, 0, 1, 3], #v[3, 0, 1, 0], #v[2, 1, 0, 3]]
  s1Select := #v[(0, 0), (1, 0), (0, 1), (1, 1), (0, 2), (1, 2), (0, 3), (1, 3),
                 (2, 0), (3, 0), (2, 1), (3, 1), (2, 2), (3, 2), (2, 3), (3, 3)]

/-- The value of the n-th unspecified read: an entry of the message buffer that nothing has written since reset (10_state R55), or a
result register or message entry of a busy unit (20_memory R70). Nothing constrains it (log 5). -/
opaque Config.freeWord : Nat → Word

/-- The event that comes when no coming event is listed: any of 20_memory R72, in no order (log 3). -/
opaque Config.freeTurn : Nat → Turn

end Sys2Proof
end

