-- ==== Sys2Proof/Machine/Cipher.lean ====
section
/-! DEFINITION. The functions of Unit A on bit sequences (40_block_cipher section 1). Element 1 of a sequence is the most
significant bit (00_scope R14). -/

namespace Sys2Proof.Machine

open Sys2Proof

/-- R120: element i of the result is element T[i] of the input. -/
def permute {n m : Nat} (t : PermTable n m) (v : BitVec n) : BitVec m :=
  BitVec.ofFnBE fun i => v.getMsb (t.get i)

/-- R122, one 5-bit half. -/
def rotl5 (h : BitVec 5) (k : Nat) : BitVec 5 := (h <<< k) ||| (h >>> (5 - k))

/-- R122: both 5-bit halves rotated left by k. -/
def rotl5x2 (v : BitVec 10) (k : Nat) : BitVec 10 :=
  rotl5 (v.extractLsb' 5 5) k ++ rotl5 (v.extractLsb' 0 5) k

/-- R123: row = 2*b0 + b3, column = 2*b1 + b2, with b0 the most significant bit of the group (00_scope R14). -/
def sel0 (g : BitVec 4) : Fin 4 × Fin 4 :=
  ((BitVec.ofBool g[3] ++ BitVec.ofBool g[0]).toFin, (BitVec.ofBool g[2] ++ BitVec.ofBool g[1]).toFin)

/-- An S-box entry by (row, column). -/
def lookup (t : SBox) (rc : Fin 4 × Fin 4) : BitVec 2 := (t.get rc.1).get rc.2

/-- R123. -/
def sbox0 (c : Config) (g : BitVec 4) : BitVec 2 := lookup c.tblS0 (sel0 g)

/-- R124: the second box under S1_SELECT (90_conflicts C1). -/
def sbox1 (c : Config) (g : BitVec 4) : BitVec 2 := lookup c.tblS1 (c.s1Select.get g.toFin)

/-- The left half of a block, elements 1..4. -/
def leftHalf (v : BitVec 8) : BitVec 4 := v.extractLsb' 4 4

/-- The right half of a block, elements 5..8. -/
def rightHalf (v : BitVec 8) : BitVec 4 := v.extractLsb' 0 4

/-- SW of R125. -/
def swapHalves (v : BitVec 8) : BitVec 8 := rightHalf v ++ leftHalf v

/-- F of R126, the source's feistelRound. -/
def roundF (c : Config) (sk v : BitVec 8) : BitVec 4 :=
  let t := permute c.tblEP (rightHalf v) ^^^ sk
  permute c.tblP4 (sbox0 c (leftHalf t) ++ sbox1 c (rightHalf t))

/-- fK of R127 (90_conflicts C3). -/
def fK (c : Config) (sk v : BitVec 8) : BitVec 8 := (leftHalf v ^^^ roundF c sk v) ++ rightHalf v

/-- The key schedule of R128: (K1, K2). -/
def subkeys (c : Config) (key : BitVec 10) : BitVec 8 × BitVec 8 :=
  let t1 := rotl5x2 (permute c.tblP10 key) 1
  let t2 := rotl5x2 t1 2
  (permute c.tblP8 t1, permute c.tblP8 t2)

/-- The steps (b) to (f) that R129 and R130 share, with the subkeys in the order they are used. -/
def rounds (c : Config) (first second v : BitVec 8) : BitVec 8 :=
  permute c.tblFP (fK c second (swapHalves (fK c first (permute c.tblIP v))))

/-- R129. -/
def encryptBlock (c : Config) (p : BitVec 8) (key : BitVec 10) : BitVec 8 :=
  rounds c (subkeys c key).1 (subkeys c key).2 p

/-- R130: K2 first, then K1. -/
def decryptBlock (c : Config) (x : BitVec 8) (key : BitVec 10) : BitVec 8 :=
  rounds c (subkeys c key).2 (subkeys c key).1 x

end Sys2Proof.Machine
end

