-- ==== Sys2Proof/Machine/State.lean ====
section
/-! DEFINITION. The state of the engine as plain data (10_state R20), the reasons a step can stop, and the state after reset
(70_reset_and_hazards R310 to R314). -/

namespace Sys2Proof.Machine

open Sys2Proof

/-- The error codes of 60_exceptions R280 other than NONE. -/
inductive ErrCode where
  | illegal
  | contract
  | noInverse
  | exhausted
  | range
deriving DecidableEq, Repr

/-- STATUS but for BUSY, which is the unit's phase (10_state R31, R50). `err` holds ERR and ERRCODE together: none is ERR = 0 and
ERRCODE = 0 (log 12). -/
structure Status where
  done : Bool
  err : Option ErrCode
  ovr : Bool
deriving DecidableEq, Repr

/-- What Unit B holds of a search while it is Busy (10_state R50): nothing before the first step; GENPRIME's attempts; KEYGEN's
attempts for the current prime and in total, and in its second stage the prime p. -/
inductive Search where
  | fresh
  | prime (attempts : Nat)
  | keyP (attempts total : Nat)
  | keyQ (p attempts total : Nat)
deriving DecidableEq, Repr

/-- Unit A's phase: Idle, or Busy with the latched command word (10_state R50). -/
inductive PhaseA where
  | idle
  | busy (cmd : Word)
deriving DecidableEq, Repr

/-- Unit B's phase: Idle, or Busy with the latched command word and the search it is running (10_state R50). -/
inductive PhaseB where
  | idle
  | busy (cmd : Word) (search : Search)
deriving DecidableEq, Repr

/-- The register set of Unit A (10_state R24 to R31). -/
structure UnitA where
  cmd : Word
  key : Word
  src : Word
  subkey : Word
  res : Word
  k1 : Word
  k2 : Word
  status : Status
  phase : PhaseA
deriving DecidableEq, Repr

/-- The register set of Unit B (10_state R31, R34 to R49). -/
structure UnitB where
  cmd : Word
  x : Word
  y : Word
  m : Word
  l : Word
  res : Word
  res2 : Word
  res3 : Word
  msgLen : Word
  n : Word
  e : Word
  d : Word
  p : Word
  q : Word
  phi : Word
  attempts : Word
  status : Status
  phase : PhaseB
deriving DecidableEq, Repr

/-- The bytes of the message buffer that something has written since reset, by window offset, addresses strictly rising
(10_state R41, R55; log 6). -/
abbrev Memory := List Host.Cell

/-- What the host port answered to the last transaction (20_memory R62, R64; log 9). -/
inductive PortResponse where
  | none
  | data (value : Word)
  | ack
  | busError
  | notAddressed
deriving DecidableEq, Repr

/-- The whole machine. The first four fields are the block's (10_state R20, R53); the others are the model's own: the environment
the block meets (log 3, 4, 9, 10) and the index of the next free value (log 5). -/
structure State where
  cfg : Config
  unitA : UnitA
  unitB : UnitB
  mem : Memory
  entropy : Word
  sched : List Turn
  host : List HostOp
  hostFailed : Bool
  port : PortResponse
  freeCount : Nat
deriving DecidableEq, Repr

/-- Why the machine stops. The spec describes no event that stops the block: an error completes the command (60_exceptions R284), a
bus error changes nothing (20_memory R64), an endless search stays Busy (R291). So there is no fault (log 15). -/
inductive Fault where
deriving DecidableEq, Repr

/-- Why a step has no meaning. -/
inductive Refusal where
  /-- Raised by an arm of `exec` whose instruction has no meaning yet; no arm raises it now. Safe. -/
  | notModelled (mnemonic : String)
deriving DecidableEq, Repr

/-- What a meaning answers. -/
abbrev Result := Host.Outcome State Fault Refusal

/-- STATUS at reset: all fields 0 (10_state R31). -/
def Status.reset : Status := { done := false, err := none, ovr := false }

/-- Unit A at reset: every register 0, Idle (70 R310, R311). -/
def UnitA.reset : UnitA where
  cmd := 0
  key := 0
  src := 0
  subkey := 0
  res := 0
  k1 := 0
  k2 := 0
  status := Status.reset
  phase := .idle

/-- Unit B at reset: every register 0, Idle (70 R310, R311). -/
def UnitB.reset : UnitB where
  cmd := 0
  x := 0
  y := 0
  m := 0
  l := 0
  res := 0
  res2 := 0
  res3 := 0
  msgLen := 0
  n := 0
  e := 0
  d := 0
  p := 0
  q := 0
  phi := 0
  attempts := 0
  status := Status.reset
  phase := .idle

/-- The machine right after power-on reset in the default configuration: both units reset, every message entry unspecified
(70 R310 to R314). DESIGN CHOICE (log 3, 4, 5, 9, 10), unsafe: the model's own fields start empty, and the entropy input at 0. -/
def State.reset : State where
  cfg := Config.default
  unitA := UnitA.reset
  unitB := UnitB.reset
  mem := []
  entropy := 0
  sched := []
  host := []
  hostFailed := false
  port := .none
  freeCount := 0

end Sys2Proof.Machine
end

