-- ==== Sys2Proof/Machine/Flags.lean ====
section
/-! DEFINITION. STATUS: its fields, its updates and its value as a word (10_state R31, R32), and the INFO word (R33). -/

namespace Sys2Proof.Machine

open Sys2Proof

/-- ERRCODE of 60_exceptions R280. -/
def ErrCode.code : ErrCode → BitVec 4
  | .illegal => 1
  | .contract => 2
  | .noInverse => 3
  | .exhausted => 4
  | .range => 5

/-- ERRCODE as STATUS shows it: 0 when there is no error (10_state R31). -/
def Status.errCode (st : Status) : BitVec 4 :=
  match st.err with
  | some c => c.code
  | none => 0

/-- STATUS as read: BUSY 0, DONE 1, ERR 2, OVR 3, ERRCODE 7:4, the rest 0 (10_state R31). -/
def Status.word (st : Status) (busy : Bool) : Word :=
  (st.errCode ++ BitVec.ofBool st.ovr ++ BitVec.ofBool st.err.isSome ++ BitVec.ofBool st.done ++ BitVec.ofBool busy).setWidth 64

/-- R32 (a): a command is accepted (BUSY is the phase). -/
def Status.accept (st : Status) : Status := { st with done := false, err := none }

/-- R32 (b): a command completes without error. -/
def Status.complete (st : Status) : Status := { st with done := true, err := none }

/-- R32 (c): a command completes with an error. -/
def Status.fail (c : ErrCode) (st : Status) : Status := { st with done := true, err := some c }

/-- R32 (d): a write is refused. -/
def Status.overrun (st : Status) : Status := { st with ovr := true }

/-- R32 (e) and R31: a write of STATUS clears OVR when bit 3 is 1 and does nothing else. -/
def Status.hostWrite (v : Word) (st : Status) : Status := if v.getLsbD 3 then { st with ovr := false } else st

/-- BUSY of Unit A (10_state R50). -/
def UnitA.busy (a : UnitA) : Bool :=
  match a.phase with
  | .idle => false
  | .busy _ => true

/-- BUSY of Unit B (10_state R50). -/
def UnitB.busy (b : UnitB) : Bool :=
  match b.phase with
  | .idle => false
  | .busy _ _ => true

/-- BUSY of a unit. -/
def State.busy (u : UnitId) (s : State) : Bool :=
  match u with
  | .a => s.unitA.busy
  | .b => s.unitB.busy

/-- A unit's STATUS as the host reads it. -/
def State.statusWord (u : UnitId) (s : State) : Word :=
  match u with
  | .a => s.unitA.status.word s.unitA.busy
  | .b => s.unitB.status.word s.unitB.busy

/-- INFO: PK_WIDTH 7:0, RANGE_CHECK 8, MSG_DEPTH 31:16, bit 32 when an attempt limit is set, the rest 0 (10_state R33). -/
def infoWord (c : Config) : Word :=
  ((BitVec.ofBool (c.attemptLimit != 0) ++ BitVec.ofNat 16 c.msgDepth) ++
    ((0 : BitVec 7) ++ BitVec.ofBool c.rangeCheck ++ BitVec.ofNat 8 c.pkWidth)).setWidth 64

end Sys2Proof.Machine
end

