-- ==== Sys2Proof/Machine/Memory.lean ====
section
/-! DEFINITION. The message buffer as bytes: read and write of one byte and of one 64-bit entry (10_state R41, 20_memory R65). An
unlisted byte has no value: nothing has written it since reset (10_state R55; log 6). -/

namespace Sys2Proof.Machine

open Sys2Proof

/-- The canonical form: addresses strictly rising. An unlisted byte has no value, so no listed byte can equal it. -/
abbrev Memory.wf (m : Memory) : Prop := m.Pairwise fun x y => x.1 < y.1

/-- The byte at a window offset, `none` when nothing has written it since reset. -/
def Memory.readByte (m : Memory) (a : Nat) : Option Byte :=
  match m with
  | [] => none
  | (k, b) :: rest => if k = a then some b else Memory.readByte rest a

/-- Write one byte, keeping the canonical form. -/
def Memory.writeByte (m : Memory) (a : Nat) (v : Byte) : Memory :=
  match m with
  | [] => [(a, v)]
  | (k, b) :: rest =>
    if a < k then (a, v) :: (k, b) :: rest
    else if a = k then (a, v) :: rest
    else (k, b) :: Memory.writeByte rest a v

/-- Byte k of a word, byte 0 holding bits 7:0 (20_memory R65). -/
def wordByte (v : Word) (k : Nat) : Byte := v.extractLsb' (8 * k) 8

/-- The 64-bit word at an offset, `none` unless all its bytes have been written. -/
def Memory.readWord (m : Memory) (a : Nat) : Option Word := do
  let b0 ← m.readByte a
  let b1 ← m.readByte (a + 1)
  let b2 ← m.readByte (a + 2)
  let b3 ← m.readByte (a + 3)
  let b4 ← m.readByte (a + 4)
  let b5 ← m.readByte (a + 5)
  let b6 ← m.readByte (a + 6)
  let b7 ← m.readByte (a + 7)
  pure (b7 ++ b6 ++ b5 ++ b4 ++ b3 ++ b2 ++ b1 ++ b0)

/-- Write the first k bytes of a word at an offset. -/
def Memory.writeBytes (m : Memory) (a : Nat) (v : Word) : Nat → Memory
  | 0 => m
  | k + 1 => (Memory.writeBytes m a v k).writeByte (a + k) (wordByte v k)

/-- Write a 64-bit word at an offset: all 64 bits at once (20_memory R67). -/
def Memory.writeWord (m : Memory) (a : Nat) (v : Word) : Memory := m.writeBytes a v 8

/-- The window offset of MSG[i] (10_state R41). -/
def msgOffset (i : Nat) : Nat := 0x800 + 8 * i

/-- Write entries start, start + 1, ... of the message buffer. -/
def Memory.writeEntries (m : Memory) (start : Nat) : List Word → Memory
  | [] => m
  | v :: rest => Memory.writeEntries (m.writeWord (msgOffset start) v) (start + 1) rest

end Sys2Proof.Machine
end

