-- ==== Sys2Proof/Machine/Ops.lean ====
section
/-! DEFINITION. The named operations of the units: accepting a command, completing it, raising an error, staying Busy, and the reads
whose value the spec leaves unspecified. -/

namespace Sys2Proof.Machine

open Sys2Proof

/-- Change Unit A's register set. -/
def State.mapA (f : UnitA → UnitA) (s : State) : State := { s with unitA := f s.unitA }

/-- Change Unit B's register set. -/
def State.mapB (f : UnitB → UnitB) (s : State) : State := { s with unitB := f s.unitB }

/-- A write of A_CMD is accepted and latched (10_state R24, R32 (a)); DONE, ERR and ERRCODE are cleared (60_exceptions R294). -/
def UnitA.accept (w : Word) (a : UnitA) : UnitA :=
  { a with cmd := w, status := a.status.accept, phase := .busy w }

/-- A write of B_CMD is accepted and latched (10_state R34, R32 (a)). -/
def UnitB.accept (w : Word) (b : UnitB) : UnitB :=
  { b with cmd := w, status := b.status.accept, phase := .busy w .fresh }

/-- R32 (b): after the result registers are written, the unit is Idle, DONE = 1 and there is no error. -/
def UnitA.complete (a : UnitA) : UnitA := { a with status := a.status.complete, phase := .idle }

/-- R32 (b) for Unit B. -/
def UnitB.complete (b : UnitB) : UnitB := { b with status := b.status.complete, phase := .idle }

/-- R32 (c): no result register is written; Idle, DONE = 1, ERR = 1 and the code. -/
def UnitA.fail (c : ErrCode) (a : UnitA) : UnitA := { a with status := a.status.fail c, phase := .idle }

/-- R32 (c) for Unit B. -/
def UnitB.fail (c : ErrCode) (b : UnitB) : UnitB := { b with status := b.status.fail c, phase := .idle }

/-- `raise Error(code)` of 00_scope R15 and 60_exceptions R284, the one shared operation: the command ends in this step. -/
def raiseError (u : UnitId) (c : ErrCode) (s : State) : Result :=
  match u with
  | .a => .next (s.mapA (UnitA.fail c))
  | .b => .next (s.mapB (UnitB.fail c))

/-- A check of a command's pseudocode: go on when it holds, else raise the error. -/
def require (p : Prop) [Decidable p] (u : UnitId) (c : ErrCode) (s : State) (go : Result) : Result :=
  if p then go else raiseError u c s

/-- The completion step of a Unit A command: its result registers and STATUS in one step (20_memory R73). -/
def completeA (write : UnitA → UnitA) (s : State) : Result := .next (s.mapA fun a => (write a).complete)

/-- The completion step of a Unit B command. -/
def completeB (write : UnitB → UnitB) (s : State) : Result := .next (s.mapB fun b => (write b).complete)

/-- The command word Unit B is running (10_state R50). -/
def UnitB.latched (b : UnitB) : Word :=
  match b.phase with
  | .idle => b.cmd
  | .busy w _ => w

/-- A failed attempt: the unit stays Busy with the search it is running (41_pk_primes_keys R187). -/
def stayBusy (search : Search) (s : State) : Result :=
  .next (s.mapB fun b => { b with phase := .busy b.latched search })

/-- A value the spec leaves unspecified: the next free word (log 5). -/
def freshWord (s : State) : Word × State :=
  (Config.freeWord s.freeCount, { s with freeCount := s.freeCount + 1 })

/-- A read of MSG[i]: what was last written there, or a fresh free word when nothing has been since reset (10_state R55). -/
def readEntry (i : Nat) (s : State) : Word × State :=
  match s.mem.readWord (msgOffset i) with
  | some v => (v, s)
  | none => freshWord s

/-- Reads of `count` entries from entry `start` on, in order. -/
def readEntries : Nat → Nat → State → List Word × State
  | 0, _, s => ([], s)
  | count + 1, start, s =>
    ((readEntry start s).1 :: (readEntries count (start + 1) (readEntry start s).2).1,
      (readEntries count (start + 1) (readEntry start s).2).2)

/-- Write entries 0, 1, ... of the message buffer. -/
def storeEntries (vs : List Word) (s : State) : State := { s with mem := s.mem.writeEntries 0 vs }

end Sys2Proof.Machine
end

