-- ==== Sys2Proof/Machine/Operands.lean ====
section
/-! DEFINITION. The operand forms: the width check of a register operand (00_scope R15, 60_exceptions R281), the operands Unit A's
commands read (40_block_cipher R131), and Unit B's bit length and draw (41_pk_primes_keys R180, R184). -/

namespace Sys2Proof.Machine

open Sys2Proof

/-- `fits(v, w)` of 00_scope R15. -/
abbrev Fits (v : Word) (w : Nat) : Prop := v.toNat < 2 ^ w

/-- Every entry read fits w bits (42_pk_modexp_msg R242, R243). -/
def allFit (w : Nat) (vs : List Word) : Bool := vs.all fun v => decide (Fits v w)

/-- Every entry read is below n, the range check of RANGE_CHECK (42_pk_modexp_msg R242, R243). -/
def allBelow (n : Nat) (vs : List Word) : Bool := vs.all fun v => decide (v.toNat < n)

/-- The low n bits of a register that fits n bits. -/
def low (n : Nat) (v : Word) : BitVec n := v.setWidth n

/-- A result zero-extended to 64 bits (00_scope R13). -/
def zext {n : Nat} (v : BitVec n) : Word := v.setWidth 64

/-- The shape of a Unit A command that reads A_SRC with n bits and writes A_RES (40_block_cipher R131). -/
def srcToRes (n : Nat) {m : Nat} (f : BitVec n → BitVec m) (s : State) : Result :=
  require (Fits s.unitA.src n) .a .contract s <|
  completeA (fun a => { a with res := zext (f (low n s.unitA.src)) }) s

/-- The shape of a Unit A command that reads A_SRC (8 bits) and then A_SUBKEY (8 bits), and writes A_RES (R142, R143). -/
def srcSubkeyToRes {m : Nat} (f : BitVec 8 → BitVec 8 → BitVec m) (s : State) : Result :=
  require (Fits s.unitA.src 8) .a .contract s <|
  require (Fits s.unitA.subkey 8) .a .contract s <|
  completeA (fun a => { a with res := zext (f (low 8 s.unitA.subkey) (low 8 s.unitA.src)) }) s

/-- The shape of a Unit A command that reads A_SRC (8 bits) and then A_KEY (10 bits), and writes A_RES (R145, R146). -/
def srcKeyToRes (f : BitVec 8 → BitVec 10 → BitVec 8) (s : State) : Result :=
  require (Fits s.unitA.src 8) .a .contract s <|
  require (Fits s.unitA.key 10) .a .contract s <|
  completeA (fun a => { a with res := zext (f (low 8 s.unitA.src) (low 10 s.unitA.key)) }) s

/-- An integer as a 64-bit register. -/
def reg64 (n : Nat) : Word := BitVec.ofNat 64 n

/-- B_RES <- n, the result of a Unit B command (10_state R39). -/
def resultB (n : Nat) (b : UnitB) : UnitB := { b with res := reg64 n }

/-- min(n, 2^64 - 1), the saturating count of B_ATTEMPTS (10_state R49). -/
def saturate64 (n : Nat) : Word := reg64 (min n (2 ^ 64 - 1))

/-- B_ATTEMPTS <- n (10_state R49). -/
def setAttempts (n : Nat) (b : UnitB) : UnitB := { b with attempts := saturate64 n }

/-- B_L as an integer (10_state R38). -/
def bitLength (s : State) : Nat := s.unitB.l.toNat

/-- draw(L): what the entropy input gives at this step, as a value of L bits (41_pk_primes_keys R184; log 4). -/
def draw (l : Nat) (s : State) : Nat := s.entropy.toNat % 2 ^ l

end Sys2Proof.Machine
end

