-- ==== Sys2Proof/Machine/BlockCipher.lean ====
section
/-! DEFINITION. The commands of Unit A (40_block_cipher section 2). -/

namespace Sys2Proof.Machine

open Sys2Proof

/-- PERM.P10 (R132). -/
def execPermP10 (s : State) : Result := srcToRes 10 (permute s.cfg.tblP10) s

/-- PERM.P8 (R133). -/
def execPermP8 (s : State) : Result := srcToRes 10 (permute s.cfg.tblP8) s

/-- PERM.IP (R134). -/
def execPermIP (s : State) : Result := srcToRes 8 (permute s.cfg.tblIP) s

/-- PERM.FP (R135). -/
def execPermFP (s : State) : Result := srcToRes 8 (permute s.cfg.tblFP) s

/-- PERM.EP (R136). -/
def execPermEP (s : State) : Result := srcToRes 4 (permute s.cfg.tblEP) s

/-- PERM.P4 (R137). -/
def execPermP4 (s : State) : Result := srcToRes 4 (permute s.cfg.tblP4) s

/-- ROTL5 0 (R138). -/
def execRotl5By0 (s : State) : Result := srcToRes 10 (rotl5x2 · 0) s

/-- ROTL5 1 (R138). -/
def execRotl5By1 (s : State) : Result := srcToRes 10 (rotl5x2 · 1) s

/-- ROTL5 2 (R138). -/
def execRotl5By2 (s : State) : Result := srcToRes 10 (rotl5x2 · 2) s

/-- ROTL5 3 (R138). -/
def execRotl5By3 (s : State) : Result := srcToRes 10 (rotl5x2 · 3) s

/-- ROTL5 4 (R138). -/
def execRotl5By4 (s : State) : Result := srcToRes 10 (rotl5x2 · 4) s

/-- SBOX.S0 (R139). -/
def execSboxS0 (s : State) : Result := srcToRes 4 (sbox0 s.cfg) s

/-- SBOX.S1 (R140). -/
def execSboxS1 (s : State) : Result := srcToRes 4 (sbox1 s.cfg) s

/-- SWAP (R141). -/
def execSwap (s : State) : Result := srcToRes 8 swapHalves s

/-- FEISTEL (R142): the round function F alone. -/
def execFeistel (s : State) : Result := srcSubkeyToRes (roundF s.cfg) s

/-- FK (R143): the complete round. -/
def execFk (s : State) : Result := srcSubkeyToRes (fK s.cfg) s

/-- SUBKEYS (R144): A_K1 and A_K2 in one step, A_RES unchanged. -/
def execSubkeys (s : State) : Result :=
  require (Fits s.unitA.key 10) .a .contract s <|
  completeA (fun a =>
    { a with k1 := zext (subkeys s.cfg (low 10 s.unitA.key)).1, k2 := zext (subkeys s.cfg (low 10 s.unitA.key)).2 }) s

/-- ENCRYPT (R145). -/
def execEncrypt (s : State) : Result := srcKeyToRes (encryptBlock s.cfg) s

/-- DECRYPT (R146). -/
def execDecrypt (s : State) : Result := srcKeyToRes (decryptBlock s.cfg) s

end Sys2Proof.Machine
end

