-- ==== Sys2Proof/Machine/Number.lean ====
section
/-! DEFINITION. The integer functions of Unit B on mathematical integers (00_scope R16; 41_pk_primes_keys, 42_pk_modexp_msg). Each
loop recurses on a bound that is never reached before the loop ends (log 13). -/

namespace Sys2Proof.Machine

/-- The bits of the integer square root of n from bit k-1 down, r being what the higher bits gave. -/
def isqrtBits (n : Nat) : Nat → Nat → Nat
  | 0, r => r
  | k + 1, r => isqrtBits n k (if (r + 2 ^ k) * (r + 2 ^ k) ≤ n then r + 2 ^ k else r)

/-- isqrt of 00_scope R16. -/
def isqrt (n : Nat) : Nat := isqrtBits n (n.log2 / 2 + 1) 0

/-- R181: trial division by 2..isqrt(n). -/
def isPrime (n : Nat) : Bool :=
  decide (1 < n) && (List.range' 2 (isqrt n - 1)).all fun i => n % i != 0

/-- R185: r | 2^(L-1) | 1. -/
def candidate (l r : Nat) : Nat := r ||| 2 ^ (l - 1) ||| 1

/-- The loop of R192 on (r0, r1), (s0, s1), (t0, t1); r0 - q*r1 is r0 mod r1. -/
def egcdLoop : Nat → Nat → Nat → Int → Int → Int → Int → Nat × Int × Int
  | 0, r0, _, s0, _, t0, _ => (r0, s0, t0)
  | k + 1, r0, r1, s0, s1, t0, t1 =>
    if r1 = 0 then (r0, s0, t0)
    else egcdLoop k r1 (r0 % r1) s1 (s0 - (r0 / r1 : Nat) * s1) t1 (t0 - (r0 / r1 : Nat) * t1)

/-- R192: (g, x, y) with a*x + b*y = g. The remainder r1 falls at every turn, so b turns are enough. -/
def egcd (a b : Nat) : Nat × Int × Int := egcdLoop b a b 1 0 0 1

/-- R194: x mod m in [0, m). -/
def modinv (a m : Nat) : Nat := ((egcd a m).2.1 % (m : Int)).toNat

/-- The exponent search of R196 from e upward, `none` when e would reach the limit (R198). -/
def findExponent (phi limit : Nat) : Nat → Nat → Option Nat
  | 0, _ => none
  | k + 1, e =>
    if Nat.gcd e phi = 1 then some e
    else if limit ≤ e + 2 then none
    else findExponent phi limit k (e + 2)

/-- R196: (n, phi, e, d), or `none` for Error(EXHAUSTED). -/
def derive (pkWidth p q : Nat) : Option (Nat × Nat × Nat × Nat) :=
  let phi := (p - 1) * (q - 1)
  (findExponent phi (2 ^ pkWidth) (2 ^ pkWidth) 65537).map fun e => (p * q, phi, e, modinv e phi)

/-- Square and multiply with reduction after every product: b^x * acc mod m. -/
def modexpLoop (m : Nat) : Nat → Nat → Nat → Nat → Nat
  | 0, _, _, acc => acc
  | k + 1, b, x, acc =>
    if x = 0 then acc
    else modexpLoop m k (b * b % m) (x / 2) (if x % 2 = 1 then acc * b % m else acc)

/-- R240: b^x mod m, by an algorithm that gives the exact value. -/
def modexp (b x m : Nat) : Nat := modexpLoop m x b x (1 % m)

end Sys2Proof.Machine
end

