-- ==== Sys2Proof/Machine/Message.lean ====
section
/-! DEFINITION. MODEXP and the message commands of Unit B (42_pk_modexp_msg). -/

namespace Sys2Proof.Machine

open Sys2Proof

/-- MODEXP (R241). -/
def execModexp (s : State) : Result :=
  require (Fits s.unitB.x s.cfg.pkWidth) .b .contract s <|
  require (Fits s.unitB.y s.cfg.pkWidth) .b .contract s <|
  require (Fits s.unitB.m s.cfg.pkWidth) .b .contract s <|
  require (s.unitB.m.toNat ≠ 0) .b .contract s <|
  completeB (resultB (modexp s.unitB.x.toNat s.unitB.y.toNat s.unitB.m.toNat)) s

/-- The three loops of R242 and R243 over the first `len` entries: the width of each, its range when RANGE_CHECK is set, and then
every entry replaced in the one completion step. Each loop reads the entries (log 7). -/
def transformEntries (x n len : Nat) (s : State) : Result :=
  let wide := readEntries len 0 s
  require (allFit s.cfg.pkWidth wide.1) .b .contract wide.2 <|
  let ranged := if s.cfg.rangeCheck then readEntries len 0 wide.2 else ([], wide.2)
  require (allBelow n ranged.1) .b .range ranged.2 <|
  let last := readEntries len 0 ranged.2
  completeB id (storeEntries (last.1.map fun v => reg64 (modexp v.toNat x n)) last.2)

/-- The shape of ENCMSG and DECMSG with the exponent register's value (R242, R243). -/
def transformMessage (x : Word) (s : State) : Result :=
  require (Fits x s.cfg.pkWidth) .b .contract s <|
  require (Fits s.unitB.n s.cfg.pkWidth ∧ s.unitB.n.toNat ≠ 0) .b .contract s <|
  require (s.unitB.msgLen.toNat ≤ s.cfg.msgDepth) .b .contract s <|
  transformEntries x.toNat s.unitB.n.toNat s.unitB.msgLen.toNat s

/-- ENCMSG (R242). -/
def execEncmsg (s : State) : Result := transformMessage s.unitB.e s

/-- DECMSG (R243). -/
def execDecmsg (s : State) : Result := transformMessage s.unitB.d s

end Sys2Proof.Machine
end

