-- ==== Sys2Proof/Machine/PublicKey.lean ====
section
/-! DEFINITION. The commands of Unit B on primes, candidates, gcd, inverses and key pairs (41_pk_primes_keys). -/

namespace Sys2Proof.Machine

open Sys2Proof

/-- ISPRIME (R182). -/
def execIsprime (s : State) : Result :=
  require (Fits s.unitB.x s.cfg.pkWidth) .b .contract s <|
  completeB (resultB (if isPrime s.unitB.x.toNat then 1 else 0)) s

/-- GENCAND (R186). -/
def execGencand (s : State) : Result :=
  require (1 ≤ bitLength s ∧ bitLength s ≤ s.cfg.pkWidth) .b .contract s <|
  completeB (resultB (candidate (bitLength s) (draw (bitLength s) s))) s

/-- The attempt limit is reached by this many attempts for one prime (R188, R197; 00_scope R7). -/
abbrev LimitReached (c : Config) (attempts : Nat) : Prop := c.attemptLimit ≠ 0 ∧ attempts = c.attemptLimit

/-- The candidate of this step's attempt (R187). -/
def attemptCandidate (s : State) : Nat := candidate (bitLength s) (draw (bitLength s) s)

/-- One attempt of GENPRIME, `before` attempts having been made by this command (R188, "every step"). -/
def genprimeAttempt (before : Nat) (s : State) : Result :=
  if isPrime (attemptCandidate s) then
    completeB (fun b => setAttempts (before + 1) (resultB (attemptCandidate s) b)) s
  else if LimitReached s.cfg (before + 1) then
    raiseError .b .exhausted (s.mapB (setAttempts (before + 1)))
  else stayBusy (.prime (before + 1)) s

/-- GENPRIME (R188). Its first step checks the bit length and makes the first attempt; a search that is not GENPRIME's own counts as
a first step (log 14). -/
def execGenprime (s : State) : Result :=
  match s.unitB.phase with
  | .busy _ (.prime before) => genprimeAttempt before s
  | _ =>
    require (1 ≤ bitLength s ∧ bitLength s ≤ s.cfg.pkWidth) .b .contract (s.mapB (setAttempts 0)) <|
    genprimeAttempt 0 s

/-- GCD (R191). -/
def execGcd (s : State) : Result :=
  require (Fits s.unitB.x s.cfg.pkWidth) .b .contract s <|
  require (Fits s.unitB.y s.cfg.pkWidth) .b .contract s <|
  completeB (resultB (Nat.gcd s.unitB.x.toNat s.unitB.y.toNat)) s

/-- The registers EGCD writes (R193): the gcd, and the coefficients modulo 2^64. -/
def writeEgcd (r : Nat × Int × Int) (b : UnitB) : UnitB :=
  { b with res := reg64 r.1, res2 := BitVec.ofInt 64 r.2.1, res3 := BitVec.ofInt 64 r.2.2 }

/-- EGCD (R193). -/
def execEgcd (s : State) : Result :=
  require (Fits s.unitB.x s.cfg.pkWidth) .b .contract s <|
  require (Fits s.unitB.y s.cfg.pkWidth) .b .contract s <|
  completeB (writeEgcd (egcd s.unitB.x.toNat s.unitB.y.toNat)) s

/-- MODINV (R195). -/
def execModinv (s : State) : Result :=
  require (Fits s.unitB.x s.cfg.pkWidth) .b .contract s <|
  require (Fits s.unitB.y s.cfg.pkWidth) .b .contract s <|
  require (2 ≤ s.unitB.y.toNat) .b .contract s <|
  require (Nat.gcd s.unitB.x.toNat s.unitB.y.toNat = 1) .b .noInverse s <|
  completeB (resultB (modinv s.unitB.x.toNat s.unitB.y.toNat)) s

/-- The registers KEYGEN writes from p, q and (n, phi, e, d) (R197); B_RES is not among them. -/
def writeKeyPair (p q : Nat) (k : Nat × Nat × Nat × Nat) (b : UnitB) : UnitB :=
  { b with p := reg64 p, q := reg64 q, n := reg64 k.1, phi := reg64 k.2.1, e := reg64 k.2.2.1, d := reg64 k.2.2.2 }

/-- KEYGEN has found p and q: B_ATTEMPTS is written first, then the pair is derived (R197, R198; 90_conflicts C12). -/
def finishKeygen (p q total : Nat) (s : State) : Result :=
  match derive s.cfg.pkWidth p q with
  | some k => completeB (fun b => writeKeyPair p q k (setAttempts total b)) s
  | none => raiseError .b .exhausted (s.mapB (setAttempts total))

/-- One attempt of KEYGEN's first stage (R197). -/
def keygenAttemptP (before total : Nat) (s : State) : Result :=
  if isPrime (attemptCandidate s) then stayBusy (.keyQ (attemptCandidate s) 0 (total + 1)) s
  else if LimitReached s.cfg (before + 1) then
    raiseError .b .exhausted (s.mapB (setAttempts (total + 1)))
  else stayBusy (.keyP (before + 1) (total + 1)) s

/-- One attempt of KEYGEN's second stage, p being found (R197). -/
def keygenAttemptQ (p before total : Nat) (s : State) : Result :=
  if isPrime (attemptCandidate s) then finishKeygen p (attemptCandidate s) (total + 1) s
  else if LimitReached s.cfg (before + 1) then
    raiseError .b .exhausted (s.mapB (setAttempts (total + 1)))
  else stayBusy (.keyQ p (before + 1) (total + 1)) s

/-- KEYGEN (R197). Its first step checks the bit length and makes the first attempt; a search that is not KEYGEN's own counts as a
first step (log 14). -/
def execKeygen (s : State) : Result :=
  match s.unitB.phase with
  | .busy _ (.keyP before total) => keygenAttemptP before total s
  | .busy _ (.keyQ p before total) => keygenAttemptQ p before total s
  | _ =>
    require (1 ≤ bitLength s ∧ bitLength s ≤ s.cfg.pkWidth / 2) .b .contract (s.mapB (setAttempts 0)) <|
    keygenAttemptP 0 0 s

end Sys2Proof.Machine
end

