-- ==== Sys2Proof/Machine/Dispatch.lean ====
section
/-! DEFINITION. A unit step of each command: one direct call of its meaning. -/

namespace Sys2Proof.Machine

open Sys2Proof

def exec (i : Instr) (s : State) : Host.Outcome State Fault Refusal :=
  match i with
  | .permP10 => Sys2Proof.Machine.execPermP10 s
  | .permP8 => Sys2Proof.Machine.execPermP8 s
  | .permIP => Sys2Proof.Machine.execPermIP s
  | .permFP => Sys2Proof.Machine.execPermFP s
  | .permEP => Sys2Proof.Machine.execPermEP s
  | .permP4 => Sys2Proof.Machine.execPermP4 s
  | .rotl5_0 => Sys2Proof.Machine.execRotl5By0 s
  | .rotl5_1 => Sys2Proof.Machine.execRotl5By1 s
  | .rotl5_2 => Sys2Proof.Machine.execRotl5By2 s
  | .rotl5_3 => Sys2Proof.Machine.execRotl5By3 s
  | .rotl5_4 => Sys2Proof.Machine.execRotl5By4 s
  | .sboxS0 => Sys2Proof.Machine.execSboxS0 s
  | .sboxS1 => Sys2Proof.Machine.execSboxS1 s
  | .swap => Sys2Proof.Machine.execSwap s
  | .feistel => Sys2Proof.Machine.execFeistel s
  | .fk => Sys2Proof.Machine.execFk s
  | .subkeys => Sys2Proof.Machine.execSubkeys s
  | .encrypt => Sys2Proof.Machine.execEncrypt s
  | .decrypt => Sys2Proof.Machine.execDecrypt s
  | .isprime => Sys2Proof.Machine.execIsprime s
  | .gencand => Sys2Proof.Machine.execGencand s
  | .genprime => Sys2Proof.Machine.execGenprime s
  | .gcd => Sys2Proof.Machine.execGcd s
  | .egcd => Sys2Proof.Machine.execEgcd s
  | .modinv => Sys2Proof.Machine.execModinv s
  | .modexp => Sys2Proof.Machine.execModexp s
  | .keygen => Sys2Proof.Machine.execKeygen s
  | .encmsg => Sys2Proof.Machine.execEncmsg s
  | .decmsg => Sys2Proof.Machine.execDecmsg s

end Sys2Proof.Machine
end

