-- ==== Sys2Proof/Decode.lean ====
section
/-! DEFINITION. Decoding a command word (30_encoding R90 to R100), the encoder, the mnemonics and the disassembly (R102, R103). -/

namespace Sys2Proof

/-- Why a word is ILLEGAL, in the order of 30_encoding R91. -/
inductive Reject where
  | reserved
  | opcode
  | selector
deriving DecidableEq, Repr

/-- OPC, bits 7:0 (30_encoding R90). -/
def opcField (w : Word) : BitVec 8 := w.extractLsb' 0 8

/-- SEL, bits 10:8 (30_encoding R90). -/
def selField (w : Word) : BitVec 3 := w.extractLsb' 8 3

/-- RSV, bits 63:11 (30_encoding R90). -/
def rsvField (w : Word) : BitVec 53 := w.extractLsb' 11 53

/-- An opcode whose only legal SEL is 0 (30_encoding R97). -/
def onlySelZero (sel : BitVec 3) (i : Instr) : Except Reject Instr :=
  if sel = 0 then .ok i else .error .selector

/-- SEL of PERM names the table (30_encoding R94). -/
def decodePerm (sel : BitVec 3) : Except Reject Instr :=
  match sel.toNat with
  | 0 => .ok .permP10
  | 1 => .ok .permP8
  | 2 => .ok .permIP
  | 3 => .ok .permFP
  | 4 => .ok .permEP
  | 5 => .ok .permP4
  | _ => .error .selector

/-- SEL of ROTL5 is the rotation amount (30_encoding R95). -/
def decodeRotl5 (sel : BitVec 3) : Except Reject Instr :=
  match sel.toNat with
  | 0 => .ok .rotl5_0
  | 1 => .ok .rotl5_1
  | 2 => .ok .rotl5_2
  | 3 => .ok .rotl5_3
  | 4 => .ok .rotl5_4
  | _ => .error .selector

/-- SEL of SBOX names the box (30_encoding R96). -/
def decodeSbox (sel : BitVec 3) : Except Reject Instr :=
  match sel.toNat with
  | 0 => .ok .sboxS0
  | 1 => .ok .sboxS1
  | _ => .error .selector

/-- Unit A's opcodes (30_encoding R92). -/
def decodeUnitA (opc : BitVec 8) (sel : BitVec 3) : Except Reject Instr :=
  match opc.toNat with
  | 0x10 => decodePerm sel
  | 0x11 => decodeRotl5 sel
  | 0x12 => decodeSbox sel
  | 0x13 => onlySelZero sel .swap
  | 0x14 => onlySelZero sel .feistel
  | 0x15 => onlySelZero sel .fk
  | 0x16 => onlySelZero sel .subkeys
  | 0x17 => onlySelZero sel .encrypt
  | 0x18 => onlySelZero sel .decrypt
  | _ => .error .opcode

/-- Unit B's opcodes (30_encoding R93). -/
def decodeUnitB (opc : BitVec 8) (sel : BitVec 3) : Except Reject Instr :=
  match opc.toNat with
  | 0x20 => onlySelZero sel .isprime
  | 0x21 => onlySelZero sel .gencand
  | 0x22 => onlySelZero sel .genprime
  | 0x23 => onlySelZero sel .gcd
  | 0x24 => onlySelZero sel .egcd
  | 0x25 => onlySelZero sel .modinv
  | 0x26 => onlySelZero sel .modexp
  | 0x27 => onlySelZero sel .keygen
  | 0x28 => onlySelZero sel .encmsg
  | 0x29 => onlySelZero sel .decmsg
  | _ => .error .opcode

/-- Decode the latched word of a unit: RSV, then OPC, then SEL (30_encoding R91). -/
def decode (u : UnitId) (w : Word) : Except Reject Instr :=
  if rsvField w ≠ 0 then .error .reserved
  else match u with
    | .a => decodeUnitA (opcField w) (selField w)
    | .b => decodeUnitB (opcField w) (selField w)

/-- The unit whose opcode table lists the command (30_encoding R92, R93). -/
def Instr.unit : Instr → UnitId
  | .permP10 | .permP8 | .permIP | .permFP | .permEP | .permP4 => .a
  | .rotl5_0 | .rotl5_1 | .rotl5_2 | .rotl5_3 | .rotl5_4 => .a
  | .sboxS0 | .sboxS1 | .swap | .feistel | .fk | .subkeys | .encrypt | .decrypt => .a
  | .isprime | .gencand | .genprime | .gcd | .egcd | .modinv | .modexp | .keygen | .encmsg | .decmsg => .b

/-- A word from its fields, RSV = 0 (30_encoding R90). -/
def commandWord (opc : BitVec 8) (sel : BitVec 3) : Word := (0 : BitVec 53) ++ sel ++ opc

/-- The word of a command (30_encoding R92 to R97). -/
def encode : Instr → Word
  | .permP10 => commandWord 0x10 0
  | .permP8 => commandWord 0x10 1
  | .permIP => commandWord 0x10 2
  | .permFP => commandWord 0x10 3
  | .permEP => commandWord 0x10 4
  | .permP4 => commandWord 0x10 5
  | .rotl5_0 => commandWord 0x11 0
  | .rotl5_1 => commandWord 0x11 1
  | .rotl5_2 => commandWord 0x11 2
  | .rotl5_3 => commandWord 0x11 3
  | .rotl5_4 => commandWord 0x11 4
  | .sboxS0 => commandWord 0x12 0
  | .sboxS1 => commandWord 0x12 1
  | .swap => commandWord 0x13 0
  | .feistel => commandWord 0x14 0
  | .fk => commandWord 0x15 0
  | .subkeys => commandWord 0x16 0
  | .encrypt => commandWord 0x17 0
  | .decrypt => commandWord 0x18 0
  | .isprime => commandWord 0x20 0
  | .gencand => commandWord 0x21 0
  | .genprime => commandWord 0x22 0
  | .gcd => commandWord 0x23 0
  | .egcd => commandWord 0x24 0
  | .modinv => commandWord 0x25 0
  | .modexp => commandWord 0x26 0
  | .keygen => commandWord 0x27 0
  | .encmsg => commandWord 0x28 0
  | .decmsg => commandWord 0x29 0

/-- The unit a word of the opcode table belongs to: the tables' opcodes are disjoint (30_encoding R92, R93, R98). A word that
neither unit defines is given to Unit A. -/
def unitOfWord (w : Word) : UnitId :=
  match decode .b w with
  | .ok _ => .b
  | .error _ => .a

/-- The word of a table row's bits, zero above `nbits` (30_encoding R90: a command is one 64-bit word). -/
def tableWord (nbits w : Nat) : Word := BitVec.ofNat 64 (w % 2 ^ nbits)

/-- The instruction the decoder reads from a table row's word, in the unit whose table lists it (30_encoding R100). -/
def decodeTableWord (nbits w : Nat) : Option Instr :=
  (decode (unitOfWord (tableWord nbits w)) (tableWord nbits w)).toOption

/-- The mnemonics of 30_encoding R92, R93 and R102. -/
def Instr.mnemonic : Instr → String
  | .permP10 => "PERM.P10"
  | .permP8 => "PERM.P8"
  | .permIP => "PERM.IP"
  | .permFP => "PERM.FP"
  | .permEP => "PERM.EP"
  | .permP4 => "PERM.P4"
  | .rotl5_0 => "ROTL5 0"
  | .rotl5_1 => "ROTL5 1"
  | .rotl5_2 => "ROTL5 2"
  | .rotl5_3 => "ROTL5 3"
  | .rotl5_4 => "ROTL5 4"
  | .sboxS0 => "SBOX.S0"
  | .sboxS1 => "SBOX.S1"
  | .swap => "SWAP"
  | .feistel => "FEISTEL"
  | .fk => "FK"
  | .subkeys => "SUBKEYS"
  | .encrypt => "ENCRYPT"
  | .decrypt => "DECRYPT"
  | .isprime => "ISPRIME"
  | .gencand => "GENCAND"
  | .genprime => "GENPRIME"
  | .gcd => "GCD"
  | .egcd => "EGCD"
  | .modinv => "MODINV"
  | .modexp => "MODEXP"
  | .keygen => "KEYGEN"
  | .encmsg => "ENCMSG"
  | .decmsg => "DECMSG"

/-- A word as a hexadecimal numeral `0x..` (00_scope R13). DESIGN CHOICE (log 18), safe: lower-case digits and no leading zeros; R103 says
only "word in hex". -/
def hexNumeral (w : Word) : String := "0x" ++ String.ofList (Nat.toDigits 16 w.toNat)

/-- Disassembly of a word written to a unit's CMD register (30_encoding R103); the form of the numeral is the model's choice (log 18). -/
def disassemble (u : UnitId) (w : Word) : String :=
  match decode u w with
  | .ok i => i.mnemonic
  | .error _ => ".illegal " ++ hexNumeral w

end Sys2Proof
end

