-- ==== Sys2Proof/Machine/RegisterMap.lean ====
section
/-! DEFINITION. The register map: the offset, access kind and owner of each register, and what a target allows (10_state register
table; 20_memory R61, R64). -/

namespace Sys2Proof

/-- The offsets of the register table (10_state section 2). -/
def Reg.offset : Reg → Nat
  | .aCmd => 0x000
  | .aStatus => 0x008
  | .aKey => 0x010
  | .aSrc => 0x018
  | .aSubkey => 0x020
  | .aRes => 0x028
  | .aK1 => 0x030
  | .aK2 => 0x038
  | .bCmd => 0x100
  | .bStatus => 0x108
  | .bX => 0x110
  | .bY => 0x118
  | .bM => 0x120
  | .bL => 0x128
  | .bRes => 0x130
  | .bRes2 => 0x138
  | .bRes3 => 0x140
  | .bMsgLen => 0x148
  | .bN => 0x150
  | .bE => 0x158
  | .bD => 0x160
  | .bP => 0x168
  | .bQ => 0x170
  | .bPhi => 0x178
  | .bAttempts => 0x180
  | .info => 0x7F8

/-- The access kinds of the register table (10_state R21, section 2). -/
def Reg.access : Reg → Access
  | .aCmd | .bCmd => .cmd
  | .aStatus | .bStatus => .status
  | .aKey | .aSrc | .aSubkey => .rw
  | .bX | .bY | .bM | .bL | .bMsgLen | .bN | .bE | .bD => .rw
  | .aRes | .aK1 | .aK2 => .ro
  | .bRes | .bRes2 | .bRes3 | .bP | .bQ | .bPhi | .bAttempts => .ro
  | .info => .ro

/-- The unit that owns a register for the busy rule; INFO has none (20_memory R61). -/
def Reg.owner : Reg → Option UnitId
  | .aCmd | .aStatus | .aKey | .aSrc | .aSubkey | .aRes | .aK1 | .aK2 => some .a
  | .bCmd | .bStatus | .bX | .bY | .bM | .bL | .bRes | .bRes2 | .bRes3 | .bMsgLen => some .b
  | .bN | .bE | .bD | .bP | .bQ | .bPhi | .bAttempts => some .b
  | .info => none

/-- The owner of a target; the message buffer is Unit B's (20_memory R61). -/
def Target.owner : Target → Option UnitId
  | .reg r => r.owner
  | .msg _ => some .b

/-- Whether the host may write a target at all (20_memory R64). -/
def Target.writable : Target → Bool
  | .reg r => r.access != .ro
  | .msg _ => true

/-- Whether a target is a STATUS register, whose write is never refused (10_state R31). -/
def Target.isStatus : Target → Bool
  | .reg r => r.access == .status
  | .msg _ => false

end Sys2Proof
end

