-- ==== Sys2Proof/Machine/Port.lean ====
section
/-! DEFINITION. The host port: what an offset names, what a read returns, what a write does, and the bus error (10_state register table;
20_memory R60 to R70). -/

namespace Sys2Proof.Machine

open Sys2Proof

/-- Every register of the table. -/
def allRegs : List Reg :=
  [.aCmd, .aStatus, .aKey, .aSrc, .aSubkey, .aRes, .aK1, .aK2, .bCmd, .bStatus, .bX, .bY, .bM, .bL, .bRes, .bRes2, .bRes3,
    .bMsgLen, .bN, .bE, .bD, .bP, .bQ, .bPhi, .bAttempts, .info]

/-- What an offset names; `none` for an unmapped or misaligned offset (10_state R23, 20_memory R61, R63). -/
def targetAt (c : Config) (off : Nat) : Option Target :=
  match allRegs.find? fun r => r.offset == off with
  | some r => some (.reg r)
  | none =>
    if msgOffset 0 ≤ off ∧ off % 8 = 0 ∧ (off - msgOffset 0) / 8 < c.msgDepth then some (.msg ((off - msgOffset 0) / 8))
    else none

/-- Whether a target's unit is Busy. -/
def ownerBusy (t : Target) (s : State) : Bool :=
  match t.owner with
  | some u => s.busy u
  | none => false

/-- The value a register holds (10_state R24 to R49). -/
def regValue (r : Reg) (s : State) : Word :=
  match r with
  | .aCmd => s.unitA.cmd
  | .aStatus => s.statusWord .a
  | .aKey => s.unitA.key
  | .aSrc => s.unitA.src
  | .aSubkey => s.unitA.subkey
  | .aRes => s.unitA.res
  | .aK1 => s.unitA.k1
  | .aK2 => s.unitA.k2
  | .bCmd => s.unitB.cmd
  | .bStatus => s.statusWord .b
  | .bX => s.unitB.x
  | .bY => s.unitB.y
  | .bM => s.unitB.m
  | .bL => s.unitB.l
  | .bRes => s.unitB.res
  | .bRes2 => s.unitB.res2
  | .bRes3 => s.unitB.res3
  | .bMsgLen => s.unitB.msgLen
  | .bN => s.unitB.n
  | .bE => s.unitB.e
  | .bD => s.unitB.d
  | .bP => s.unitB.p
  | .bQ => s.unitB.q
  | .bPhi => s.unitB.phi
  | .bAttempts => s.unitB.attempts
  | .info => infoWord s.cfg

/-- The value a host read of a mapped target returns: a result register or a message entry of a busy unit is unspecified, everything
else is the value held (20_memory R70). -/
def readTarget (t : Target) (s : State) : Word × State :=
  match t with
  | .reg r => if r.access = .ro ∧ ownerBusy t s then freshWord s else (regValue r s, s)
  | .msg i => if ownerBusy t s then freshWord s else readEntry i s

/-- The effect of an accepted host write on a register: an RW register takes all 64 bits (10_state R21), a CMD register also issues
the command (R24, R34), STATUS clears OVR (R31), a read-only register takes nothing. -/
def writeReg (r : Reg) (v : Word) (s : State) : State :=
  match r with
  | .aCmd => s.mapA (UnitA.accept v)
  | .aStatus => s.mapA fun a => { a with status := a.status.hostWrite v }
  | .aKey => s.mapA fun a => { a with key := v }
  | .aSrc => s.mapA fun a => { a with src := v }
  | .aSubkey => s.mapA fun a => { a with subkey := v }
  | .bCmd => s.mapB (UnitB.accept v)
  | .bStatus => s.mapB fun b => { b with status := b.status.hostWrite v }
  | .bX => s.mapB fun b => { b with x := v }
  | .bY => s.mapB fun b => { b with y := v }
  | .bM => s.mapB fun b => { b with m := v }
  | .bL => s.mapB fun b => { b with l := v }
  | .bMsgLen => s.mapB fun b => { b with msgLen := v }
  | .bN => s.mapB fun b => { b with n := v }
  | .bE => s.mapB fun b => { b with e := v }
  | .bD => s.mapB fun b => { b with d := v }
  | .aRes | .aK1 | .aK2 | .bRes | .bRes2 | .bRes3 | .bP | .bQ | .bPhi | .bAttempts | .info => s

/-- The effect of an accepted host write on a target. -/
def storeTarget (t : Target) (v : Word) (s : State) : State :=
  match t with
  | .reg r => writeReg r v s
  | .msg i => { s with mem := s.mem.writeWord (msgOffset i) v }

/-- A refused write: OVR of the owning unit becomes 1 and nothing else changes (10_state R32 (d)). -/
def refuseWrite (u : UnitId) (s : State) : State :=
  match u with
  | .a => s.mapA fun a => { a with status := a.status.overrun }
  | .b => s.mapB fun b => { b with status := b.status.overrun }

/-- The port's answer to the transaction just done (log 9). -/
def answer (r : PortResponse) (s : State) : State := { s with port := r }

/-- The target of a transaction of a width at an offset; `none` is a bus error (20_memory R62, R63, R64). -/
def addressed (c : Config) (off : Nat) (w : Width) : Option Target := if w = .w64 then targetAt c off else none

/-- HostRead (20_memory R62, R64, R70): no host read changes a register or an entry (R68). -/
def hostRead (off : Nat) (w : Width) (s : State) : State :=
  match addressed s.cfg off w with
  | some t => answer (.data (readTarget t s).1) (readTarget t s).2
  | none => answer .busError s

/-- A host write of a target: a STATUS write is accepted always; any other is refused while the owning unit is Busy (R69). -/
def writeTarget (t : Target) (v : Word) (s : State) : State :=
  match t.owner with
  | some u => if s.busy u ∧ t.isStatus = false then refuseWrite u s else storeTarget t v s
  | none => storeTarget t v s

/-- HostWrite (20_memory R62, R64, R69): a bus error wins over a refusal. -/
def hostWrite (off : Nat) (w : Width) (v : Word) (s : State) : State :=
  match addressed s.cfg off w with
  | some t => if t.writable then answer .ack (writeTarget t v s) else answer .busError s
  | none => answer .busError s

/-- The offset of a bus address in the block's 4096-byte window at ENGINE_BASE; `none` outside it (20_memory R61). -/
def windowOffset (c : Config) (addr : Nat) : Option Nat :=
  if c.engineBase ≤ addr ∧ addr < c.engineBase + 4096 then some (addr - c.engineBase) else none

/-- One host transaction. One whose address lies outside the window is not the block's (log 8). -/
def transact (t : Transaction) (s : State) : State :=
  match t with
  | .read addr w =>
    match windowOffset s.cfg addr with
    | some off => hostRead off w s
    | none => answer .notAddressed s
  | .write addr w v =>
    match windowOffset s.cfg addr with
    | some off => hostWrite off w v s
    | none => answer .notAddressed s

end Sys2Proof.Machine
end

