-- ==== Sys2Proof/Machine/HostProgram.lean ====
section
/-! DEFINITION. The host's program: the expansion of its lines (30_encoding R101, R102, R104) and the host's turn. -/

namespace Sys2Proof.Machine

open Sys2Proof

/-- A unit's CMD register. -/
def cmdReg : UnitId → Reg
  | .a => .aCmd
  | .b => .bCmd

/-- A unit's STATUS register. -/
def statusReg : UnitId → Reg
  | .a => .aStatus
  | .b => .bStatus

/-- `WR <reg>, <value>` (30_encoding R101). -/
def opWrite (c : Config) (off : Nat) (v : Word) : HostOp := .bus (.write (c.engineBase + off) .w64 v)

/-- `RD <reg>` (30_encoding R101). -/
def opRead (c : Config) (off : Nat) : HostOp := .bus (.read (c.engineBase + off) .w64)

/-- A command line: the write of its word to its unit's CMD register (30_encoding R102). -/
def opCommand (c : Config) (i : Instr) : HostOp := opWrite c (cmdReg i.unit).offset (encode i)

/-- WRMSG i, v for consecutive entries (30_encoding R101, R104). -/
def loadEntries (c : Config) (start : Nat) : List Word → List HostOp
  | [] => []
  | v :: rest => opWrite c (msgOffset start) v :: loadEntries c (start + 1) rest

/-- The operations of a line (30_encoding R101, R102, R104). -/
def expandLine (c : Config) : HostLine → List HostOp
  | .wr r v => [opWrite c r.offset v]
  | .rd r => [opRead c r.offset]
  | .wrmsg i v => [opWrite c (msgOffset i) v]
  | .rdmsg i => [opRead c (msgOffset i)]
  | .command i => [opCommand c i]
  | .wait u => [.wait u]
  | .run i => [opCommand c i, .wait i.unit]
  | .clrovr u => [opWrite c (statusReg u).offset 0x8]
  | .check u => [.check u]
  | .loadmsg vs => loadEntries c 0 vs ++ [opWrite c Reg.bMsgLen.offset (BitVec.ofNat 64 vs.length)]
  | .bus t => [.bus t]

/-- A host program's operations. -/
def assemble (c : Config) (lines : List HostLine) : List HostOp := lines.flatMap (expandLine c)

/-- The read of a unit's STATUS that WAIT and CHECK make (30_encoding R104). -/
def pollStatus (u : UnitId) (s : State) : State :=
  transact (.read (s.cfg.engineBase + (statusReg u).offset) .w64) s

/-- A bit of the value the last read returned; no read has returned one, no bit (log 10). -/
def portBit (n : Nat) (s : State) : Bool :=
  match s.port with
  | .data v => v.getLsbD n
  | .none | .ack | .busError | .notAddressed => false

/-- The host does the next operation of its program, if any. WAIT stays while it reads BUSY = 1; CHECK stops the program with a
failure when it reads ERR = 1, and what was not executed stays in `host` (30_encoding R104; log 10). -/
def hostOperation (s : State) : State :=
  match s.host with
  | [] => s
  | .bus t :: rest => transact t { s with host := rest }
  | .wait u :: rest => if portBit 0 (pollStatus u s) then pollStatus u s else { pollStatus u s with host := rest }
  | .check u :: rest =>
    if portBit 2 (pollStatus u s) then { pollStatus u s with host := rest, hostFailed := true }
    else { pollStatus u s with host := rest }

/-- The host's turn: a program that a CHECK has stopped executes no further line (30_encoding R104). -/
def hostTurn (s : State) : State := if s.hostFailed then s else hostOperation s

end Sys2Proof.Machine
end

