-- ==== Sys2Proof/Machine/Agents.lean ====
section
/-! DEFINITION. The events of a run: a unit step, the host's turn, the reset (20_memory R72; 70_reset_and_hazards). -/

namespace Sys2Proof.Machine

open Sys2Proof

/-- What a unit does with its latched word: the command it decodes to, or Error(ILLEGAL) (30_encoding R91). -/
def runWord (u : UnitId) (w : Word) (s : State) : Result :=
  match decode u w with
  | .ok i => exec i s
  | .error _ => raiseError u .illegal s

/-- A step of Unit A, enabled exactly when it is Busy (70 R322); a turn given to an idle unit passes (log 3). -/
def unitATurn (s : State) : Result :=
  match s.unitA.phase with
  | .idle => .next s
  | .busy w => runWord .a w s

/-- A step of Unit B with what its entropy input gives now (70 R322, 00_scope R12); a turn given to an idle unit passes (log 3). -/
def unitBTurn (r : Word) (s : State) : Result :=
  match s.unitB.phase with
  | .idle => .next { s with entropy := r }
  | .busy w _ => runWord .b w { s with entropy := r }

/-- The reset event: every register at its reset value, running commands aborted, the message buffer unspecified, the configuration
kept (70 R310 to R313). The host and its port are outside the block and stay as they are (log 11). -/
def resetBlock (s : State) : State := { s with unitA := UnitA.reset, unitB := UnitB.reset, mem := [] }

/-- One event. -/
def takeTurn (t : Turn) (s : State) : Result :=
  match t with
  | .host => .next (hostTurn s)
  | .unitA => unitATurn s
  | .unitB r => unitBTurn r s
  | .reset => .next (resetBlock s)

/-- The next event: the first listed, or one that nothing constrains (log 3). -/
def nextTurn (s : State) : Turn × State :=
  match s.sched with
  | t :: rest => (t, { s with sched := rest })
  | [] => (Config.freeTurn s.freeCount, { s with freeCount := s.freeCount + 1 })

/-- Unit u has accepted a command word and takes the next turn (log 11). DESIGN CHOICE (log 4, 11), unsafe: a turn of Unit B placed here
brings the value the entropy input holds now, 0 from State.reset, where the spec leaves the draw free (41_pk_primes_keys R184). -/
def issueNow (u : UnitId) (w : Word) (s : State) : State :=
  match u with
  | .a => { s.mapA (UnitA.accept w) with sched := .unitA :: s.sched }
  | .b => { s.mapB (UnitB.accept w) with sched := .unitB s.entropy :: s.sched }

end Sys2Proof.Machine
end

