-- ==== Sys2Proof/Machine/Step.lean ====
section
/-! DEFINITION. One step: the next event of the run (20_memory R72). And the host's way to place one command word. -/

namespace Sys2Proof.Machine

open Sys2Proof

/-- One event of the run. -/
def step (s : State) : Host.Outcome State Fault Refusal := takeTurn (nextTurn s).1 (nextTurn s).2

/-- The state in which the unit of the word has accepted it, as by a write of its CMD register (10_state R24, R34), and takes the next
turn. The block fetches nothing (20_memory R76): log 11 says how a command comes to run from reset. -/
def State.withFetchWord (s : State) (nbits w : Nat) : State :=
  issueNow (unitOfWord (tableWord nbits w)) (tableWord nbits w) s

end Sys2Proof.Machine
end

