-- ==== Sys2Proof/WellFormed.lean ====
section
/-! DEFINITION. The checks on what is written down: a configuration (00_scope R5 to R11, R17), a command in its unit (30_encoding
R92, R93), a line of a host program (30_encoding R101, R104). -/

namespace Sys2Proof

/-- The legal parameter values of 00_scope R5, R6, R7 and R11. -/
abbrev Config.ParamsOk (c : Config) : Prop :=
  (c.pkWidth % 2 = 0 ∧ 18 ≤ c.pkWidth ∧ c.pkWidth ≤ 64) ∧ (1 ≤ c.msgDepth ∧ c.msgDepth ≤ 256) ∧
    c.attemptLimit < 2 ^ 64 ∧ c.engineBase % 4096 = 0

/-- 00_scope R17: TBL_IP is a bijection of 1..8 and TBL_FP its inverse (lengths and ranges hold by the tables' types). -/
abbrev Config.TablesOk (c : Config) : Prop :=
  (∀ i j : Fin 8, c.tblIP.get i = c.tblIP.get j → i = j) ∧ ∀ i : Fin 8, c.tblIP.get (c.tblFP.get i) = i

/-- A well-formed configuration. -/
abbrev Config.WF (c : Config) : Prop := c.ParamsOk ∧ c.TablesOk

/-- A command is well formed in the unit whose table lists it, and in no other (30_encoding R92, R93, R98). -/
def Instr.wellFormed (u : UnitId) (i : Instr) : Bool := i.unit == u

/-- A line of a host program is well formed when the message entries it names exist (20_memory R61, 10_state R42). -/
def HostLine.wellFormed (c : Config) : HostLine → Bool
  | .wrmsg i _ => decide (i < c.msgDepth)
  | .rdmsg i => decide (i < c.msgDepth)
  | .loadmsg vs => decide (vs.length ≤ c.msgDepth)
  | .wr _ _ | .rd _ | .command _ | .wait _ | .run _ | .clrovr _ | .check _ | .bus _ => true

end Sys2Proof
end

