-- ==== Sys2Proof/Safety.lean ====
section
/-! DEFINITION. The terms the claims use: the state after a completion or an error, the invariant of the block, and the end of a run. -/

namespace Sys2Proof.Machine

open Sys2Proof

/-- `s` after a Unit A command has completed without error, the result registers being those of `a` (10_state R32 (b)). -/
def okA (s : State) (a : UnitA) : State :=
  { s with unitA := { a with status := { a.status with done := true, err := none }, phase := .idle } }

/-- `s` after a Unit A command has raised an error: nothing but STATUS and the phase changes (10_state R32 (c)). -/
def errA (s : State) (c : ErrCode) : State :=
  { s with unitA := { s.unitA with status := { s.unitA.status with done := true, err := some c }, phase := .idle } }

/-- `s` after a Unit B command has completed without error, the result registers being those of `b` (10_state R32 (b)). -/
def okB (s : State) (b : UnitB) : State :=
  { s with unitB := { b with status := { b.status with done := true, err := none }, phase := .idle } }

/-- `s` after a Unit B command has raised an error (10_state R32 (c)). -/
def errB (s : State) (c : ErrCode) : State :=
  { s with unitB := { s.unitB with status := { s.unitB.status with done := true, err := some c }, phase := .idle } }

/-- 40_block_cipher R120 on 64-bit registers: r is the m-bit value whose element i is element T[i] of the n-bit value v. -/
def Permutes {n m : Nat} (t : PermTable n m) (v r : Word) : Prop :=
  r.toNat < 2 ^ m ∧ ∀ i : Fin m, r.getLsbD (m - 1 - i) = v.getLsbD (n - 1 - (t.get i).val)

/-- 40_block_cipher R122 on 64-bit registers: r is the 10-bit value whose halves are those of v rotated left by k. -/
def Rotates (k : Nat) (v r : Word) : Prop :=
  r.toNat < 2 ^ 10 ∧ ∀ j < 5, r.getLsbD j = v.getLsbD ((j + 5 - k) % 5) ∧ r.getLsbD (5 + j) = v.getLsbD (5 + (j + 5 - k) % 5)

/-- The width of the A_SRC operand of each Unit A command; `none` when it is not read (10_state R26). -/
def srcWidth : Instr → Option Nat
  | .permP10 | .permP8 | .rotl5_0 | .rotl5_1 | .rotl5_2 | .rotl5_3 | .rotl5_4 => some 10
  | .permIP | .permFP | .swap | .feistel | .fk | .encrypt | .decrypt => some 8
  | .permEP | .permP4 | .sboxS0 | .sboxS1 => some 4
  | .subkeys => none
  | .isprime | .gencand | .genprime | .gcd | .egcd | .modinv | .modexp | .keygen | .encmsg | .decmsg => none

/-- Whether a Unit A command reads A_SUBKEY (10_state R27). -/
def readsSubkey (i : Instr) : Bool := i == .feistel || i == .fk

/-- Whether a Unit A command reads A_KEY (10_state R25). -/
def readsKey (i : Instr) : Bool := i == .subkeys || i == .encrypt || i == .decrypt

/-- Every operand register a Unit A command reads fits its width (40_block_cipher R131). -/
def OperandsFit (i : Instr) (a : UnitA) : Prop :=
  (∀ w, srcWidth i = some w → a.src.toNat < 2 ^ w) ∧ (readsSubkey i = true → a.subkey.toNat < 2 ^ 8) ∧
    (readsKey i = true → a.key.toNat < 2 ^ 10)

/-- What A_RES holds after an instruction, when it answers a next state. -/
def resAfter (i : Instr) (s : State) : Option Word :=
  match exec i s with
  | .next t => some t.unitA.res
  | .fault _ => none
  | .refused _ => none

/-- An opcode of the unit's table (30_encoding R92, R93). -/
def OpcodeLegal (u : UnitId) (opc : Nat) : Prop :=
  match u with
  | .a => 0x10 ≤ opc ∧ opc ≤ 0x18
  | .b => 0x20 ≤ opc ∧ opc ≤ 0x29

/-- A SEL that the opcode allows (30_encoding R94 to R97). -/
def SelLegal (opc sel : Nat) : Prop :=
  sel ≤ if opc = 0x10 then 5 else if opc = 0x11 then 4 else if opc = 0x12 then 1 else 0

/-- A command word that is not defined for the unit (60_exceptions R282). -/
def IllegalWord (u : UnitId) (w : Word) : Prop :=
  w.toNat / 2 ^ 11 ≠ 0 ∨ ¬OpcodeLegal u (w.toNat % 2 ^ 8) ∨ ¬SelLegal (w.toNat % 2 ^ 8) (w.toNat / 2 ^ 8 % 2 ^ 3)

/-- The command permutes A_SRC by the table into A_RES (40_block_cipher R120, R132 to R137). -/
def PermCommand (i : Instr) {n m : Nat} (t : PermTable n m) (s : State) : Prop :=
  s.unitA.src.toNat < 2 ^ n →
    ∃ r, Permutes t s.unitA.src r ∧ exec i s = .next (okA s { s.unitA with res := r })

/-- The command rotates both halves of A_SRC left by k into A_RES (40_block_cipher R122, R138). -/
def RotateCommand (i : Instr) (k : Nat) (s : State) : Prop :=
  s.unitA.src.toNat < 2 ^ 10 →
    ∃ r, Rotates k s.unitA.src r ∧ exec i s = .next (okA s { s.unitA with res := r })

/-- The row 2*b0 + b3 and the column 2*b1 + b2 of a 4-bit group (40_block_cipher R123). -/
def rowOf (g : Nat) : Nat := 2 * (g / 8 % 2) + g % 2
def colOf (g : Nat) : Nat := 2 * (g / 4 % 2) + g / 2 % 2

/-- The integer entry of an S-box at a row and a column. -/
def boxEntry (t : SBox) (row col : Fin 4) : Nat := ((t.get row).get col).toNat

/-- The integer the first S-box gives for a group (40_block_cipher R123). -/
def box0 (c : Config) (g : Nat) : Nat := boxEntry c.tblS0 (Fin.ofNat 4 (rowOf g)) (Fin.ofNat 4 (colOf g))

/-- The integer the second S-box gives for a group, under S1_SELECT (40_block_cipher R124). -/
def box1 (c : Config) (g : Nat) : Nat :=
  boxEntry c.tblS1 (c.s1Select.get (Fin.ofNat 16 g)).1 (c.s1Select.get (Fin.ofNat 16 g)).2

/-- The 4-bit F of a subkey and a block (40_block_cipher R126): expand the right half, XOR the subkey, look both groups up, permute. -/
def RoundValue (c : Config) (sk v f : Word) : Prop :=
  ∃ ep, Permutes c.tblEP (BitVec.ofNat 64 (v.toNat % 16)) ep ∧
    Permutes c.tblP4 (BitVec.ofNat 64 (4 * box0 c ((ep ^^^ sk).toNat / 16) + box1 c ((ep ^^^ sk).toNat % 16))) f

/-- c is the candidate of l bits that the draw e gives: top and bottom bit 1, the others the draw's (41_pk_primes_keys R185). -/
def CandidateOf (l : Nat) (e : Word) (c : Nat) : Prop :=
  c < 2 ^ l ∧ c.testBit 0 = true ∧ c.testBit (l - 1) = true ∧ ∀ k, 1 ≤ k → k < l - 1 → c.testBit k = e.getLsbD k

/-- A unit's STATUS fields but for BUSY. -/
def statusOf (u : UnitId) (s : State) : Status :=
  match u with
  | .a => s.unitA.status
  | .b => s.unitB.status

/-- The code of each error (60_exceptions R280). -/
def errorNumber : ErrCode → Nat
  | .illegal => 1
  | .contract => 2
  | .noInverse => 3
  | .exhausted => 4
  | .range => 5

/-- The attempts a running GENPRIME has made (10_state R50). -/
def genprimeAttempts (s : State) : Nat :=
  match s.unitB.phase with
  | .busy _ (.prime k) => k
  | .busy _ .fresh | .busy _ (.keyP _ _) | .busy _ (.keyQ _ _ _) | .idle => 0

/-- The attempts a KEYGEN in its first stage has made for p (10_state R50). -/
def keygenAttempts (s : State) : Nat :=
  match s.unitB.phase with
  | .busy _ (.keyP k _) => k
  | .busy _ .fresh | .busy _ (.prime _) | .busy _ (.keyQ _ _ _) | .idle => 0

/-- The draws a KEYGEN in its first stage has made (10_state R50). -/
def keygenTotal (s : State) : Nat :=
  match s.unitB.phase with
  | .busy _ (.keyP _ k) => k
  | .busy _ .fresh | .busy _ (.prime _) | .busy _ (.keyQ _ _ _) | .idle => 0

/-- Unit B is in KEYGEN's second stage (10_state R50). -/
def inSecondStage (s : State) : Bool :=
  match s.unitB.phase with
  | .busy _ (.keyQ _ _ _) => true
  | .busy _ .fresh | .busy _ (.prime _) | .busy _ (.keyP _ _) | .idle => false

/-- `s` with B_ATTEMPTS written. -/
def withAttempts (n : Nat) (s : State) : State :=
  { s with unitB := { s.unitB with attempts := BitVec.ofNat 64 (min n (2 ^ 64 - 1)) } }

/-- `s` with Unit B still Busy with its command and this search. -/
def searching (search : Search) (s : State) : State :=
  { s with unitB := { s.unitB with phase := .busy s.unitB.latched search } }

/-- The message buffer holds these values in its first B_MSGLEN entries, all of them written (10_state R41, R42). -/
def MessageIs (s : State) (ms : List Word) : Prop :=
  ms.length = s.unitB.msgLen.toNat ∧ ∀ i (h : i < ms.length), s.mem.readWord (msgOffset i) = some ms[i]

/-- The exponent a message command uses (42_pk_modexp_msg R242, R243). -/
def MessageExponent (i : Instr) (s : State) (x : Word) : Prop :=
  (i = .encmsg ∧ x = s.unitB.e) ∨ (i = .decmsg ∧ x = s.unitB.d)

/-- The checks of a message command that come before its elements (42_pk_modexp_msg R242, R243). -/
def MessageKeyOk (s : State) (x : Word) : Prop :=
  x.toNat < 2 ^ s.cfg.pkWidth ∧ s.unitB.n.toNat < 2 ^ s.cfg.pkWidth ∧ s.unitB.n.toNat ≠ 0 ∧
    s.unitB.msgLen.toNat ≤ s.cfg.msgDepth

/-- An offset that names no register and no entry of the message buffer (10_state R23). -/
def Unmapped (c : Config) (off : Nat) : Prop :=
  (∀ r : Reg, r.offset ≠ off) ∧ ∀ i < c.msgDepth, msgOffset i ≠ off

/-- `s` with the A_SRC and A_SUBKEY operands loaded. -/
def loadA (src subkey : Word) (s : State) : State :=
  { s with unitA := { s.unitA with src := src, subkey := subkey } }

/-- The integers (n, phi, e, d) are the key pair of the primes p and q in a datapath of w bits (41_pk_primes_keys R199). -/
def KeyPairOf (w p q n phi e d : Nat) : Prop :=
  n = p * q ∧ phi = (p - 1) * (q - 1) ∧ (e % 2 = 1 ∧ 65537 ≤ e ∧ e < 2 ^ w ∧ Nat.Coprime e phi) ∧
    (∀ e', e' % 2 = 1 → 65537 ≤ e' → Nat.Coprime e' phi → e ≤ e') ∧ d < phi ∧ d * e % phi = 1

/-- What Unit B holds of a search is what a run of the command it has latched can hold (10_state R50; 41_pk_primes_keys R188, R197). -/
def SearchOk (s : State) : Prop :=
  match s.unitB.phase with
  | .idle => True
  | .busy _ .fresh => True
  | .busy w (.prime attempts) =>
    w = encode .genprime ∧ 1 ≤ s.unitB.l.toNat ∧ s.unitB.l.toNat ≤ s.cfg.pkWidth ∧ 1 ≤ attempts ∧
      (s.cfg.attemptLimit ≠ 0 → attempts < s.cfg.attemptLimit)
  | .busy w (.keyP attempts total) =>
    w = encode .keygen ∧ 1 ≤ s.unitB.l.toNat ∧ s.unitB.l.toNat ≤ s.cfg.pkWidth / 2 ∧ 1 ≤ attempts ∧ total = attempts ∧
      (s.cfg.attemptLimit ≠ 0 → attempts < s.cfg.attemptLimit)
  | .busy w (.keyQ p attempts total) =>
    w = encode .keygen ∧ 1 ≤ s.unitB.l.toNat ∧ s.unitB.l.toNat ≤ s.cfg.pkWidth / 2 ∧ Nat.Prime p ∧
      2 ^ (s.unitB.l.toNat - 1) ≤ p ∧ p < 2 ^ s.unitB.l.toNat ∧ p % 2 = 1 ∧ attempts < total ∧
      (s.cfg.attemptLimit ≠ 0 → attempts < s.cfg.attemptLimit)

/-- The invariant of the block. -/
structure EngineInv (s : State) : Prop where
  /-- The configuration is legal (00_scope R5 to R11, R17). -/
  config : s.cfg.WF
  /-- The memory is in its canonical form. -/
  canonical : s.mem.wf
  /-- Only bytes of the message buffer are listed (10_state R41). -/
  inBuffer : ∀ c ∈ s.mem, msgOffset 0 ≤ c.1 ∧ c.1 < msgOffset s.cfg.msgDepth
  /-- An entry has been written whole or not at all (20_memory R67). -/
  wholeEntries : ∀ i j, j < 8 → (s.mem.readByte (msgOffset i + j)).isSome = (s.mem.readByte (msgOffset i)).isSome
  /-- BUSY = 1 implies DONE = 0, ERR = 0 and ERRCODE = 0 (10_state R31), for Unit A. -/
  statusA : s.unitA.busy = true → s.unitA.status.done = false ∧ s.unitA.status.err = none
  /-- The same for Unit B. -/
  statusB : s.unitB.busy = true → s.unitB.status.done = false ∧ s.unitB.status.err = none
  /-- The latched word is the one A_CMD shows (10_state R24). -/
  latchA : ∀ w, s.unitA.phase = .busy w → s.unitA.cmd = w
  /-- The latched word is the one B_CMD shows (10_state R34). -/
  latchB : ∀ w search, s.unitB.phase = .busy w search → s.unitB.cmd = w
  /-- The used widths of A_RES, A_K1 and A_K2 (10_state R28, R29, R30). -/
  widthsA : s.unitA.res.toNat < 2 ^ 10 ∧ s.unitA.k1.toNat < 2 ^ 8 ∧ s.unitA.k2.toNat < 2 ^ 8
  /-- The used widths of B_RES, B_P, B_Q and B_PHI (10_state section 2). -/
  widthsB : s.unitB.res.toNat < 2 ^ s.cfg.pkWidth ∧ s.unitB.p.toNat < 2 ^ s.cfg.pkWidth ∧
    s.unitB.q.toNat < 2 ^ s.cfg.pkWidth ∧ s.unitB.phi.toNat < 2 ^ s.cfg.pkWidth
  /-- The search Unit B holds is one its command can be in (10_state R50). -/
  search : SearchOk s

/-- The host program has executed its last line and both units are Idle (70_reset_and_hazards R329). A program that a CHECK stopped keeps
the lines it did not execute, so its run is over only when that CHECK was its last line. -/
def State.runOver (s : State) : Bool := s.host.isEmpty && !s.unitA.busy && !s.unitB.busy

end Sys2Proof.Machine
end

