-- ==== Sys2Proof/Certificates/Slice0/Obligations.lean ====
section
/-! DEFINITION. The statements for the provers, from the numbered rules of spec/. -/

open Sys2Proof Sys2Proof.Machine

/-! ### Encoding -/

/-- Words written out from 30_encoding R92, R93 and R102 decode to the commands they stand for, and words of the other unit, with a
wrong SEL or with a reserved bit do not. -/
def Obligations.WrittenOutWordsDecode : Prop :=
  decode .a 0x210 = .ok .permIP ∧ decode .a 0x211 = .ok .rotl5_2 ∧ decode .a 0x112 = .ok .sboxS1 ∧ decode .a 0x17 = .ok .encrypt ∧
    decode .b 0x22 = .ok .genprime ∧ decode .b 0x27 = .ok .keygen ∧ decode .b 0x28 = .ok .encmsg ∧
    decode .a 0x20 = .error .opcode ∧ decode .b 0x17 = .error .opcode ∧ decode .a 0x610 = .error .selector ∧
    decode .b 0x128 = .error .selector ∧ decode .a 0x817 = .error .reserved ∧ decode .a 0 = .error .opcode

/-- A unit executes a command exactly on the one word that encodes it, and only a command of its own table (R90 to R98). -/
def Obligations.DecodeExactlyTheEncodedWord : Prop :=
  ∀ (u : UnitId) (w : Word) (i : Instr), decode u w = .ok i ↔ i.unit = u ∧ w = encode i

/-- R91, R92 to R97: a word is refused for its reserved bits first, then its opcode, then its selector, and for nothing else. -/
def Obligations.RejectionOrder : Prop :=
  ∀ (u : UnitId) (w : Word),
    (decode u w = .error .reserved ↔ w.toNat / 2 ^ 11 ≠ 0) ∧
    (decode u w = .error .opcode ↔ w.toNat / 2 ^ 11 = 0 ∧ ¬OpcodeLegal u (w.toNat % 2 ^ 8)) ∧
    (decode u w = .error .selector ↔ w.toNat / 2 ^ 11 = 0 ∧ OpcodeLegal u (w.toNat % 2 ^ 8) ∧
      ¬SelLegal (w.toNat % 2 ^ 8) (w.toNat / 2 ^ 8 % 2 ^ 3))

/-- R282, R91: a unit whose latched word has RSV not 0, an opcode it does not define or a SEL the opcode does not allow completes with
ILLEGAL in its next step, and nothing but STATUS and the phase changes. -/
def Obligations.IllegalWordRaisesIllegal : Prop :=
  ∀ (s : State) (rest : List Turn) (w : Word),
    (s.sched = .unitA :: rest → s.unitA.phase = .busy w → IllegalWord .a w →
      step s = .next (errA { s with sched := rest } .illegal)) ∧
    (∀ r search, s.sched = .unitB r :: rest → s.unitB.phase = .busy w search → IllegalWord .b w →
      step s = .next (errB { s with sched := rest, entropy := r } .illegal))

/-! ### The step -/

/-- R322, R91: a turn of a Busy unit runs the command its latched word decodes to; the step around it only takes the turn off the list
and, for Unit B, puts the turn's value on the entropy input (the turn list and its values are the model's, log 3 and 4). -/
def Obligations.StepRunsTheDecodedCommand : Prop :=
  ∀ (s : State) (rest : List Turn) (w : Word) (i : Instr),
    (s.sched = .unitA :: rest → s.unitA.phase = .busy w → decode .a w = .ok i → step s = exec i { s with sched := rest }) ∧
    (∀ r search, s.sched = .unitB r :: rest → s.unitB.phase = .busy w search → decode .b w = .ok i →
      step s = exec i { s with sched := rest, entropy := r })

/-- R322: a unit step is enabled exactly when its unit is Busy; a turn given to an Idle unit changes nothing but the turn list and the
entropy input (the model's choice, log 3). -/
def Obligations.IdleUnitTakesNoStep : Prop :=
  ∀ (s : State) (rest : List Turn),
    (s.sched = .unitA :: rest → s.unitA.phase = .idle → step s = .next { s with sched := rest }) ∧
    (∀ r, s.sched = .unitB r :: rest → s.unitB.phase = .idle → step s = .next { s with sched := rest, entropy := r })

/-- R310 to R313: a reset sets every register but INFO to 0, makes both units Idle whatever they were running, leaves every message
entry unspecified and keeps the configuration and INFO. -/
def Obligations.ResetEventClearsTheBlock : Prop :=
  ∀ (s : State) (rest : List Turn), s.sched = .reset :: rest →
    ∃ t, step s = .next t ∧ (∀ r, r ≠ .info → regValue r t = 0) ∧ regValue .info t = regValue .info s ∧
      t.unitA.phase = .idle ∧ t.unitB.phase = .idle ∧ (∀ i, t.mem.readWord (msgOffset i) = none) ∧ t.cfg = s.cfg

/-- R54, R310, R314: after power-on reset every register but INFO reads 0, both units are Idle, STATUS is 0 and no message entry has a
value. -/
def Obligations.ResetStateIsTheSpecs : Prop :=
  (∀ r, r ≠ .info → regValue r State.reset = 0) ∧ State.reset.unitA.phase = .idle ∧ State.reset.unitB.phase = .idle ∧
    (∀ i, State.reset.mem.readWord (msgOffset i) = none) ∧ regValue .info State.reset = 0x0000000001000040

/-- Every event has an outcome: in every state the step answers a next state, so no event of a run stops the block (R72, R284, R291;
the model's choices of log 3, 8, 10 and 15 included). -/
def Obligations.EveryStepAnswersNext : Prop :=
  ∀ s : State, ∃ t, step s = .next t

/-- R53, R19, R312: no event writes the configuration, and INFO never changes. -/
def Obligations.ConfigurationNeverChanges : Prop :=
  ∀ s t : State, step s = .next t → t.cfg = s.cfg ∧ regValue .info t = regValue .info s

/-- R79, R2: a turn of Unit A changes nothing but Unit A, so nothing of Unit B or its STATUS; a turn of Unit B changes nothing but
Unit B, the message buffer and the model's own entropy input and free-value index, so nothing of Unit A or its STATUS. -/
def Obligations.UnitsAreIndependent : Prop :=
  ∀ (s t : State) (rest : List Turn), step s = .next t →
    (s.sched = .unitA :: rest → t = { s with sched := rest, unitA := t.unitA }) ∧
    (∀ r, s.sched = .unitB r :: rest →
      t = { s with sched := rest, entropy := r, unitB := t.unitB, mem := t.mem, freeCount := t.freeCount })

/-- R2, R322: no command of Unit A reads anything of Unit B, the message buffer or the entropy input, and no command of Unit B reads
anything of Unit A. -/
def Obligations.CommandsReadOnlyTheirUnit : Prop :=
  ∀ (i : Instr) (s s' t t' : State), s.cfg = s'.cfg → exec i s = .next t → exec i s' = .next t' →
    (i.unit = .a → s.unitA = s'.unitA → t.unitA = t'.unitA) ∧
    (i.unit = .b → s.unitB = s'.unitB → s.mem = s'.mem → s.entropy = s'.entropy → s.freeCount = s'.freeCount →
      t.unitB = t'.unitB ∧ t.mem = t'.mem)

/-- R80: only its own steps and a reset end a unit's Busy phase. -/
def Obligations.OnlyOwnStepsAndResetEndBusy : Prop :=
  ∀ (s t : State) (turn : Turn) (rest : List Turn), s.sched = turn :: rest → step s = .next t →
    (s.unitA.busy = true → t.unitA.busy = false → turn = .unitA ∨ turn = .reset) ∧
    (s.unitB.busy = true → t.unitB.busy = false → (∃ r, turn = .unitB r) ∨ turn = .reset)

/-- The invariant of the block (`EngineInv`: the legal configuration, the canonical form of memory, STATUS's legal values of R31, the
used widths of the result registers, the latched words and the search) holds after reset. -/
def Obligations.InvariantHoldsAtReset : Prop :=
  EngineInv State.reset

/-- Every step keeps the invariant of the block, from every state that has it. -/
def Obligations.EveryStepKeepsTheInvariant : Prop :=
  ∀ s t : State, EngineInv s → step s = .next t → EngineInv t

/-! ### Unit A -/

/-- R131, R281, R28 to R30: a Unit A command whose operands fit completes without error, writes A_RES alone (SUBKEYS: A_K1 and A_K2
alone) and changes nothing else but STATUS and the phase; one with an operand that does not fit raises CONTRACT and writes no result. -/
def Obligations.UnitATemplate : Prop :=
  ∀ (i : Instr) (s : State), i.unit = .a →
    (OperandsFit i s.unitA → ∃ res k1 k2,
      exec i s = .next (okA s { s.unitA with res := res, k1 := k1, k2 := k2 }) ∧
      (i = .subkeys → res = s.unitA.res) ∧ (i ≠ .subkeys → k1 = s.unitA.k1 ∧ k2 = s.unitA.k2)) ∧
    (¬OperandsFit i s.unitA → exec i s = .next (errA s .contract))

/-- R120, R132 to R137: each PERM command writes to A_RES the value whose element i is element T[i] of A_SRC, for its table T. -/
def Obligations.PermCommandsPermute : Prop :=
  ∀ s : State, PermCommand .permP10 s.cfg.tblP10 s ∧ PermCommand .permP8 s.cfg.tblP8 s ∧ PermCommand .permIP s.cfg.tblIP s ∧
    PermCommand .permFP s.cfg.tblFP s ∧ PermCommand .permEP s.cfg.tblEP s ∧ PermCommand .permP4 s.cfg.tblP4 s

/-- R150: for every permutation table T and every j, permuting the value with only element j set gives a 1 in exactly the elements i with
T[i] = j. -/
def Obligations.OneHotPermutation : Prop :=
  ∀ (n m : Nat) (t : PermTable n m) (j : Fin n) (i : Fin m),
    (permute t (BitVec.twoPow n (n - 1 - j))).getMsb i = true ↔ t.get i = j

/-- R122, R138: ROTL5 k rotates each 5-bit half left by k; no bit crosses between the halves. -/
def Obligations.Rotl5RotatesEachHalf : Prop :=
  ∀ s : State, RotateCommand .rotl5_0 0 s ∧ RotateCommand .rotl5_1 1 s ∧ RotateCommand .rotl5_2 2 s ∧
    RotateCommand .rotl5_3 3 s ∧ RotateCommand .rotl5_4 4 s

/-- R123, R124, R139, R140: the S-box commands look the group up, the first at row 2*b0+b3 and column 2*b1+b2, the second where
S1_SELECT says. -/
def Obligations.SboxCommandsLookUp : Prop :=
  ∀ s : State, s.unitA.src.toNat < 2 ^ 4 →
    exec .sboxS0 s = .next (okA s { s.unitA with res := BitVec.ofNat 64 (box0 s.cfg s.unitA.src.toNat) }) ∧
    exec .sboxS1 s = .next (okA s { s.unitA with res := BitVec.ofNat 64 (box1 s.cfg s.unitA.src.toNat) })

/-- R125, R141: SWAP exchanges the two 4-bit halves. -/
def Obligations.SwapExchangesHalves : Prop :=
  ∀ s : State, s.unitA.src.toNat < 2 ^ 8 →
    exec .swap s = .next (okA s { s.unitA with
      res := BitVec.ofNat 64 (16 * (s.unitA.src.toNat % 16) + s.unitA.src.toNat / 16) })

/-- R126, R127, R142, R143: FEISTEL writes F of A_SUBKEY and A_SRC, and FK the left half XOR that F, with the right half untouched. -/
def Obligations.FeistelAndFkComputeTheRound : Prop :=
  ∀ s : State, s.unitA.src.toNat < 2 ^ 8 → s.unitA.subkey.toNat < 2 ^ 8 →
    ∃ f, RoundValue s.cfg s.unitA.subkey s.unitA.src f ∧
      exec .feistel s = .next (okA s { s.unitA with res := f }) ∧
      exec .fk s = .next (okA s { s.unitA with
        res := BitVec.ofNat 64 (16 * (s.unitA.src.toNat / 16 ^^^ f.toNat) + s.unitA.src.toNat % 16) })

/-- R128, R144: SUBKEYS writes K1 = P8 of P10 rotated by 1 and K2 = P8 of that rotated by 2 more, and leaves A_RES. -/
def Obligations.SubkeysRunsTheKeySchedule : Prop :=
  ∀ s : State, s.unitA.key.toNat < 2 ^ 10 →
    ∃ t0 t1 t2 k1 k2, Permutes s.cfg.tblP10 s.unitA.key t0 ∧ Rotates 1 t0 t1 ∧ Permutes s.cfg.tblP8 t1 k1 ∧
      Rotates 2 t1 t2 ∧ Permutes s.cfg.tblP8 t2 k2 ∧
      exec .subkeys s = .next (okA s { s.unitA with k1 := k1, k2 := k2 })

/-- R149, R129, R130: ENCRYPT's result is that of the chain PERM.IP, FK with K1, SWAP, FK with K2, PERM.FP of the commands, each reading
the result before it, K1 and K2 being what SUBKEYS gives; DECRYPT's is the same chain with K2 and K1 exchanged. -/
def Obligations.EncryptAndDecryptAreTheCommandChain : Prop :=
  ∀ s : State, s.unitA.src.toNat < 2 ^ 8 → s.unitA.key.toNat < 2 ^ 10 →
    ∃ k1 k2 ip e1 e2 e3 c d1 d2 d3 p,
      exec .subkeys s = .next (okA s { s.unitA with k1 := k1, k2 := k2 }) ∧
      resAfter .permIP s = some ip ∧
      resAfter .fk (loadA ip k1 s) = some e1 ∧ resAfter .swap (loadA e1 k1 s) = some e2 ∧
      resAfter .fk (loadA e2 k2 s) = some e3 ∧ resAfter .permFP (loadA e3 k2 s) = some c ∧
      resAfter .fk (loadA ip k2 s) = some d1 ∧ resAfter .swap (loadA d1 k2 s) = some d2 ∧
      resAfter .fk (loadA d2 k1 s) = some d3 ∧ resAfter .permFP (loadA d3 k1 s) = some p ∧
      exec .encrypt s = .next (okA s { s.unitA with res := c }) ∧ exec .decrypt s = .next (okA s { s.unitA with res := p })

/-- R148: in every well-formed configuration, ENCRYPT of any block under any key completes, and DECRYPT of its result under the same key
completes with the original block. -/
def Obligations.DecryptInvertsEncrypt : Prop :=
  ∀ s : State, s.cfg.TablesOk → s.unitA.src.toNat < 2 ^ 8 → s.unitA.key.toNat < 2 ^ 10 →
    ∃ c, c.toNat < 2 ^ 8 ∧ exec .encrypt s = .next (okA s { s.unitA with res := c }) ∧
      ∀ t, t.cfg = s.cfg → t.unitA.key = s.unitA.key → t.unitA.src = c →
        exec .decrypt t = .next (okA t { t.unitA with res := s.unitA.src })

/-- R147: fK is an involution for every subkey, and SW is an involution, for every table set. -/
def Obligations.RoundAndSwapAreInvolutions : Prop :=
  ∀ (c : Config) (sk v : BitVec 8), fK c sk (fK c sk v) = v ∧ swapHalves (swapHalves v) = v

/-! ### Unit B: primes, candidates, gcd, inverses -/

/-- R183: trial division says prime exactly of the primes. -/
def Obligations.TrialDivisionIsPrimality : Prop :=
  ∀ n : Nat, isPrime n = true ↔ Nat.Prime n

/-- R182: ISPRIME, word 0x020, writes 1 for a prime and 0 otherwise, or raises CONTRACT for an operand that does not fit. -/
def Obligations.IsprimeReportsPrimality : Prop :=
  ∀ s : State, encode .isprime = 0x020 ∧
    (s.unitB.x.toNat < 2 ^ s.cfg.pkWidth → ∃ r, exec .isprime s = .next (okB s { s.unitB with res := r }) ∧
      (Nat.Prime s.unitB.x.toNat → r = 1) ∧ (¬Nat.Prime s.unitB.x.toNat → r = 0)) ∧
    (¬s.unitB.x.toNat < 2 ^ s.cfg.pkWidth → exec .isprime s = .next (errB s .contract))

/-- R185, R186: GENCAND writes the candidate of B_L bits of its draw: top and bottom bit 1, the others the draw's; a bit length outside
1..PK_WIDTH raises CONTRACT. The draw is the low bits of the model's entropy input (log 4). -/
def Obligations.GencandForcesTopAndBottomBit : Prop :=
  ∀ s : State, s.cfg.WF →
    (1 ≤ s.unitB.l.toNat → s.unitB.l.toNat ≤ s.cfg.pkWidth → ∃ c, CandidateOf s.unitB.l.toNat s.entropy c ∧
      exec .gencand s = .next (okB s { s.unitB with res := BitVec.ofNat 64 c })) ∧
    (s.unitB.l.toNat = 0 ∨ s.cfg.pkWidth < s.unitB.l.toNat → exec .gencand s = .next (errB s .contract))

/-- R191: GCD, word 0x023, writes the greatest common divisor, or raises CONTRACT for an operand that does not fit. -/
def Obligations.GcdWritesTheGcd : Prop :=
  ∀ s : State, encode .gcd = 0x023 ∧
    (s.unitB.x.toNat < 2 ^ s.cfg.pkWidth ∧ s.unitB.y.toNat < 2 ^ s.cfg.pkWidth →
      ∃ g, exec .gcd s = .next (okB s { s.unitB with res := g }) ∧ g.toNat = Nat.gcd s.unitB.x.toNat s.unitB.y.toNat) ∧
    (¬(s.unitB.x.toNat < 2 ^ s.cfg.pkWidth ∧ s.unitB.y.toNat < 2 ^ s.cfg.pkWidth) → exec .gcd s = .next (errB s .contract))

/-- R192: egcd is Euclid's algorithm with its coefficients: egcd(a, 0) is (a, 1, 0), and a turn of the loop takes egcd(a, b) to
egcd(b, a mod b); so it gives the gcd and Bézout coefficients, and for 64-bit operands these are below 2^63 in magnitude. -/
def Obligations.EgcdFollowsEuclid : Prop :=
  ∀ a b : Nat,
    egcd a 0 = (a, 1, 0) ∧
    (b ≠ 0 → egcd a b = ((egcd b (a % b)).1, (egcd b (a % b)).2.2, (egcd b (a % b)).2.1 - (a / b : Nat) * (egcd b (a % b)).2.2)) ∧
    (egcd a b).1 = Nat.gcd a b ∧ (a : Int) * (egcd a b).2.1 + (b : Int) * (egcd a b).2.2 = (egcd a b).1 ∧
    (a < 2 ^ 64 → b < 2 ^ 64 → (egcd a b).2.1.natAbs < 2 ^ 63 ∧ (egcd a b).2.2.natAbs < 2 ^ 63)

/-- R193: EGCD, word 0x024, writes in one step the gcd and the two's-complement coefficients that egcd gives, of which
B_X*x + B_Y*y = gcd holds exactly; an operand that does not fit raises CONTRACT. -/
def Obligations.EgcdWritesBezoutCoefficients : Prop :=
  ∀ s : State, encode .egcd = 0x024 ∧
    (s.unitB.x.toNat < 2 ^ s.cfg.pkWidth ∧ s.unitB.y.toNat < 2 ^ s.cfg.pkWidth →
      ∃ g x y, exec .egcd s = .next (okB s { s.unitB with res := g, res2 := x, res3 := y }) ∧
        (g.toNat, x.toInt, y.toInt) = egcd s.unitB.x.toNat s.unitB.y.toNat ∧
        (s.unitB.x.toNat : Int) * x.toInt + (s.unitB.y.toNat : Int) * y.toInt = g.toNat) ∧
    (¬(s.unitB.x.toNat < 2 ^ s.cfg.pkWidth ∧ s.unitB.y.toNat < 2 ^ s.cfg.pkWidth) → exec .egcd s = .next (errB s .contract))

/-- R195: MODINV, word 0x025, writes the inverse in [0, B_Y); it raises CONTRACT for an operand that does not fit or a modulus below 2,
and NOINVERSE when only the inverse is missing. -/
def Obligations.ModinvWritesTheInverse : Prop :=
  ∀ s : State, encode .modinv = 0x025 ∧
    (s.unitB.x.toNat < 2 ^ s.cfg.pkWidth ∧ s.unitB.y.toNat < 2 ^ s.cfg.pkWidth ∧ 2 ≤ s.unitB.y.toNat →
      (Nat.gcd s.unitB.x.toNat s.unitB.y.toNat = 1 →
        ∃ d, exec .modinv s = .next (okB s { s.unitB with res := d }) ∧ d.toNat < s.unitB.y.toNat ∧
          s.unitB.x.toNat * d.toNat % s.unitB.y.toNat = 1) ∧
      (Nat.gcd s.unitB.x.toNat s.unitB.y.toNat ≠ 1 → exec .modinv s = .next (errB s .noInverse))) ∧
    (¬(s.unitB.x.toNat < 2 ^ s.cfg.pkWidth ∧ s.unitB.y.toNat < 2 ^ s.cfg.pkWidth ∧ 2 ≤ s.unitB.y.toNat) →
      exec .modinv s = .next (errB s .contract))

/-- R241: MODEXP, word 0x026, writes B_X^B_Y mod B_M exactly (0^0 = 1), or raises CONTRACT for an operand that does not fit or a zero
modulus. -/
def Obligations.ModexpWritesThePower : Prop :=
  ∀ s : State, encode .modexp = 0x026 ∧
    (s.unitB.x.toNat < 2 ^ s.cfg.pkWidth ∧ s.unitB.y.toNat < 2 ^ s.cfg.pkWidth ∧ s.unitB.m.toNat < 2 ^ s.cfg.pkWidth ∧
        s.unitB.m.toNat ≠ 0 →
      ∃ r, exec .modexp s = .next (okB s { s.unitB with res := r }) ∧
        r.toNat = s.unitB.x.toNat ^ s.unitB.y.toNat % s.unitB.m.toNat) ∧
    (¬(s.unitB.x.toNat < 2 ^ s.cfg.pkWidth ∧ s.unitB.y.toNat < 2 ^ s.cfg.pkWidth ∧ s.unitB.m.toNat < 2 ^ s.cfg.pkWidth ∧
        s.unitB.m.toNat ≠ 0) → exec .modexp s = .next (errB s .contract))

/-! ### Unit B: the prime searches -/

/-- R187, R188: an attempt of GENPRIME draws a candidate; a prime completes the command with it in B_RES and the attempts in B_ATTEMPTS;
otherwise the attempt limit ends it with EXHAUSTED and B_ATTEMPTS written, or the unit stays Busy. The draw is log 4's; a search that
is not GENPRIME's own counts as none (log 14). -/
def Obligations.GenprimeAttempt : Prop :=
  ∀ (s : State) (c : Nat), s.cfg.WF → 1 ≤ s.unitB.l.toNat → s.unitB.l.toNat ≤ s.cfg.pkWidth →
    CandidateOf s.unitB.l.toNat s.entropy c →
    (Nat.Prime c → exec .genprime s =
      .next (okB s { (withAttempts (genprimeAttempts s + 1) s).unitB with res := BitVec.ofNat 64 c })) ∧
    (¬Nat.Prime c → s.cfg.attemptLimit ≠ 0 → genprimeAttempts s + 1 = s.cfg.attemptLimit →
      exec .genprime s = .next (errB (withAttempts (genprimeAttempts s + 1) s) .exhausted)) ∧
    (¬Nat.Prime c → s.cfg.attemptLimit = 0 ∨ genprimeAttempts s + 1 ≠ s.cfg.attemptLimit →
      exec .genprime s = .next (searching (.prime (genprimeAttempts s + 1)) s))

/-- R188, R197: the first step of GENPRIME or KEYGEN with a bit length outside its range raises CONTRACT and writes 0 to B_ATTEMPTS. -/
def Obligations.SearchWithBadLengthRaisesContract : Prop :=
  ∀ (s : State) (w : Word), s.unitB.phase = .busy w .fresh →
    (s.unitB.l.toNat = 0 ∨ s.cfg.pkWidth < s.unitB.l.toNat →
      exec .genprime s = .next (errB (withAttempts 0 s) .contract)) ∧
    (s.unitB.l.toNat = 0 ∨ s.cfg.pkWidth / 2 < s.unitB.l.toNat →
      exec .keygen s = .next (errB (withAttempts 0 s) .contract))

/-- R197: an attempt of KEYGEN's first stage. A prime starts the second stage with it as p and no attempt made; otherwise the limit of
attempts for p ends the command with EXHAUSTED, or the unit stays Busy. The draw is log 4's; a search that is not KEYGEN's own counts
as none (log 14). -/
def Obligations.KeygenFirstStageAttempt : Prop :=
  ∀ (s : State) (c : Nat), s.cfg.WF → inSecondStage s = false → 1 ≤ s.unitB.l.toNat → s.unitB.l.toNat ≤ s.cfg.pkWidth / 2 →
    CandidateOf s.unitB.l.toNat s.entropy c →
    (Nat.Prime c → exec .keygen s = .next (searching (.keyQ c 0 (keygenTotal s + 1)) s)) ∧
    (¬Nat.Prime c → s.cfg.attemptLimit ≠ 0 → keygenAttempts s + 1 = s.cfg.attemptLimit →
      exec .keygen s = .next (errB (withAttempts (keygenTotal s + 1) s) .exhausted)) ∧
    (¬Nat.Prime c → s.cfg.attemptLimit = 0 ∨ keygenAttempts s + 1 ≠ s.cfg.attemptLimit →
      exec .keygen s = .next (searching (.keyP (keygenAttempts s + 1) (keygenTotal s + 1)) s))

/-- R197: an attempt of KEYGEN's second stage that draws no prime: EXHAUSTED at the limit of attempts for q, else the unit stays Busy.
The draw is log 4's. -/
def Obligations.KeygenSecondStageFailedAttempt : Prop :=
  ∀ (s : State) (w : Word) (p before total c : Nat), s.cfg.WF → s.unitB.phase = .busy w (.keyQ p before total) →
    1 ≤ s.unitB.l.toNat → s.unitB.l.toNat ≤ s.cfg.pkWidth / 2 → CandidateOf s.unitB.l.toNat s.entropy c → ¬Nat.Prime c →
    (s.cfg.attemptLimit ≠ 0 → before + 1 = s.cfg.attemptLimit →
      exec .keygen s = .next (errB (withAttempts (total + 1) s) .exhausted)) ∧
    (s.cfg.attemptLimit = 0 ∨ before + 1 ≠ s.cfg.attemptLimit →
      exec .keygen s = .next (searching (.keyQ p (before + 1) (total + 1)) s))

/-- R196 to R199: the attempt that draws q completes KEYGEN: it writes p, q, n = p*q, phi = (p-1)(q-1), the smallest odd e from 65537 on
coprime with phi, its inverse d modulo phi, and the number of draws; the exponent search is never exhausted; B_RES is not written.
The draw is log 4's. -/
def Obligations.KeygenCompletesWithAKeyPair : Prop :=
  ∀ (s : State) (w : Word) (p before total q : Nat), s.cfg.WF → s.unitB.phase = .busy w (.keyQ p before total) →
    1 ≤ s.unitB.l.toNat → s.unitB.l.toNat ≤ s.cfg.pkWidth / 2 → Nat.Prime p → p % 2 = 1 → p < 2 ^ s.unitB.l.toNat →
    CandidateOf s.unitB.l.toNat s.entropy q → Nat.Prime q →
    ∃ n phi e d, KeyPairOf s.cfg.pkWidth p q n phi e d ∧
      n < 2 ^ s.cfg.pkWidth ∧
      exec .keygen s = .next (okB s { (withAttempts (total + 1) s).unitB with
        p := BitVec.ofNat 64 p, q := BitVec.ofNat 64 q, n := BitVec.ofNat 64 n, phi := BitVec.ofNat 64 phi,
        e := BitVec.ofNat 64 e, d := BitVec.ofNat 64 d })

/-- R189, R326: with B_L = 1 and no attempt limit, no step of GENPRIME ends it, whatever it draws: the only candidate is 1, the unit
stays Busy, and nothing but its own count of attempts changes. -/
def Obligations.GenprimeOfLengthOneHangs : Prop :=
  ∀ (s : State) (r : Word) (rest : List Turn) (k : Nat), s.cfg.attemptLimit = 0 → s.unitB.l = 1 →
    s.unitB.phase = .busy (encode .genprime) (.prime k) → s.sched = .unitB r :: rest →
    step s = .next { s with sched := rest, entropy := r,
                            unitB := { s.unitB with phase := .busy (encode .genprime) (.prime (k + 1)) } }

/-- R323: every command but GENPRIME and KEYGEN completes in one unit step, whatever its operands: DONE = 1 and the unit Idle. -/
def Obligations.OneStepCommandsComplete : Prop :=
  ∀ (i : Instr) (s : State), i ≠ .genprime → i ≠ .keygen → ∃ t, exec i s = .next t ∧
    (i.unit = .a → t.unitA.phase = .idle ∧ t.unitA.status.done = true) ∧
    (i.unit = .b → t.unitB.phase = .idle ∧ t.unitB.status.done = true)

/-! ### Unit B: messages -/

/-- R242, R243, R246: a message command whose checks all pass replaces each of the first B_MSGLEN entries m by m^x mod B_N (x is B_E for
ENCMSG, B_D for DECMSG) in one step; every byte outside them, and everything else but STATUS and the phase, stays. -/
def Obligations.MessageCommandsTransformInPlace : Prop :=
  ∀ (i : Instr) (s : State) (x : Word) (ms : List Word), MessageExponent i s x → MessageKeyOk s x → MessageIs s ms → s.mem.wf →
    (∀ m ∈ ms, m.toNat < 2 ^ s.cfg.pkWidth) → (s.cfg.rangeCheck = true → ∀ m ∈ ms, m.toNat < s.unitB.n.toNat) →
    ∃ mem', exec i s = .next (okB { s with mem := mem' } s.unitB) ∧
      (∀ k (h : k < ms.length), ∃ v, mem'.readWord (msgOffset k) = some v ∧
        v.toNat = ms[k].toNat ^ x.toNat % s.unitB.n.toNat) ∧
      (∀ b, b < msgOffset 0 ∨ msgOffset ms.length ≤ b → mem'.readByte b = s.mem.readByte b)

/-- R242, R243, R281, R287, R290: the checks of a message command in order; an error writes no entry. -/
def Obligations.MessageCommandErrors : Prop :=
  ∀ (i : Instr) (s : State) (x : Word), MessageExponent i s x →
    (¬MessageKeyOk s x → exec i s = .next (errB s .contract)) ∧
    (∀ ms, MessageKeyOk s x → MessageIs s ms →
      ((∃ m ∈ ms, ¬m.toNat < 2 ^ s.cfg.pkWidth) → exec i s = .next (errB s .contract)) ∧
      ((∀ m ∈ ms, m.toNat < 2 ^ s.cfg.pkWidth) → s.cfg.rangeCheck = true → (∃ m ∈ ms, s.unitB.n.toNat ≤ m.toNat) →
        exec i s = .next (errB s .range)))

/-- R55, R242: entries that nothing has written do not stop a message command: with 64-bit integers and no range check it completes,
and every entry it processed then holds a value below B_N. What such an entry reads as is a free value (log 5, 6, 7). -/
def Obligations.UnwrittenEntriesDoNotStopMessages : Prop :=
  ∀ (i : Instr) (s : State) (x : Word), MessageExponent i s x → MessageKeyOk s x → s.mem.wf → s.cfg.pkWidth = 64 →
    s.cfg.rangeCheck = false →
    ∃ mem' k, exec i s = .next (okB { s with mem := mem', freeCount := k } s.unitB) ∧
      (∀ j < s.unitB.msgLen.toNat, ∃ v, mem'.readWord (msgOffset j) = some v ∧ v.toNat < s.unitB.n.toNat) ∧
      (∀ b, b < msgOffset 0 ∨ msgOffset s.unitB.msgLen.toNat ≤ b → mem'.readByte b = s.mem.readByte b)

/-- R244: with a key pair of a KEYGEN that completed without error with B_P and B_Q different, ENCMSG followed by DECMSG gives back every
element of a message whose elements are below B_N. -/
def Obligations.MessageRoundTrip : Prop :=
  ∀ (s0 t0 s : State) (ms : List Word), EngineInv s0 → exec .keygen s0 = .next t0 →
    t0.unitB.phase = .idle → t0.unitB.status.err = none → t0.unitB.p ≠ t0.unitB.q →
    s.cfg = s0.cfg → s.unitB.n = t0.unitB.n → s.unitB.e = t0.unitB.e → s.unitB.d = t0.unitB.d →
    s.mem.wf → MessageIs s ms → ms.length ≤ s.cfg.msgDepth → (∀ m ∈ ms, m.toNat < s.unitB.n.toNat) →
    ∃ t1 t2, exec .encmsg s = .next t1 ∧ exec .decmsg t1 = .next t2 ∧ MessageIs t2 ms ∧
      t2.unitB.status.err = none ∧ t2.unitB.status.done = true

/-! ### Errors and frames -/

/-- R290, R284: a command that ends with ERR = 1 leaves every register it would have written (B_ATTEMPTS of GENPRIME and KEYGEN excepted)
and every byte of the message buffer as before; only STATUS and the phase change. -/
def Obligations.ErrorsArePrecise : Prop :=
  ∀ (i : Instr) (s t : State) (c : ErrCode), exec i s = .next t →
    (i.unit = .a → t.unitA.status.err = some c → t = errA s c) ∧
    (i.unit = .b → t.unitB.phase = .idle → t.unitB.status.err = some c →
      ∃ attempts k, (i ≠ .genprime → i ≠ .keygen → attempts = s.unitB.attempts) ∧
        t = errB { s with unitB := { s.unitB with attempts := attempts }, freeCount := k } c)

/-- R280, R283, R286, R287: which command raises which code: NOINVERSE only MODINV, EXHAUSTED only GENPRIME and KEYGEN, RANGE only the
message commands under RANGE_CHECK; a command of Unit A only CONTRACT; ILLEGAL no decoded command. -/
def Obligations.WhoRaisesWhichCode : Prop :=
  ∀ (i : Instr) (s t : State) (c : ErrCode), exec i s = .next t →
    (i.unit = .a → t.unitA.status.err = some c → c = .contract) ∧
    (i.unit = .b → t.unitB.phase = .idle → t.unitB.status.err = some c →
      c = .contract ∨ (c = .noInverse ∧ i = .modinv) ∨ (c = .exhausted ∧ (i = .genprime ∨ i = .keygen)) ∨
        (c = .range ∧ (i = .encmsg ∨ i = .decmsg) ∧ s.cfg.rangeCheck = true))

/-- R35 to R49, R41: the frame of every Unit B command. It leaves Unit A, the operand registers, OVR and B_CMD; B_RES is written only
by the integer commands, B_RES2 and B_RES3 only by EGCD, the key registers only by KEYGEN, B_ATTEMPTS only by GENPRIME and KEYGEN; no
byte of the message buffer changes but the first B_MSGLEN entries under ENCMSG and DECMSG. -/
def Obligations.UnitBCommandFrame : Prop :=
  ∀ (i : Instr) (s t : State), i.unit = .b → s.mem.wf → exec i s = .next t →
    t = { s with unitB := t.unitB, mem := t.mem, freeCount := t.freeCount } ∧
    (t.unitB.cmd = s.unitB.cmd ∧ t.unitB.x = s.unitB.x ∧ t.unitB.y = s.unitB.y ∧ t.unitB.m = s.unitB.m ∧
      t.unitB.l = s.unitB.l ∧ t.unitB.msgLen = s.unitB.msgLen ∧ t.unitB.status.ovr = s.unitB.status.ovr) ∧
    (i = .keygen ∨ i = .encmsg ∨ i = .decmsg → t.unitB.res = s.unitB.res) ∧
    (i ≠ .egcd → t.unitB.res2 = s.unitB.res2 ∧ t.unitB.res3 = s.unitB.res3) ∧
    (i ≠ .keygen → t.unitB.p = s.unitB.p ∧ t.unitB.q = s.unitB.q ∧ t.unitB.phi = s.unitB.phi ∧ t.unitB.n = s.unitB.n ∧
      t.unitB.e = s.unitB.e ∧ t.unitB.d = s.unitB.d) ∧
    (i ≠ .genprime → i ≠ .keygen → t.unitB.attempts = s.unitB.attempts) ∧
    (i ≠ .encmsg → i ≠ .decmsg → t.mem = s.mem ∧ t.freeCount = s.freeCount) ∧
    (∀ b, b < msgOffset 0 ∨ msgOffset s.unitB.msgLen.toNat ≤ b → t.mem.readByte b = s.mem.readByte b)

/-! ### The host port -/

/-- R64, R62, R63, R23: a transaction of a width other than 64 bits, at a misaligned or unmapped offset, or a write of a read-only
register, gets a bus error and changes no state of the block, Busy or not. -/
def Obligations.BusErrorChangesNothing : Prop :=
  ∀ (s : State) (off : Nat) (w : Width) (v : Word), off < 4096 →
    (w ≠ .w64 ∨ off % 8 ≠ 0 ∨ Unmapped s.cfg off →
      transact (.read (s.cfg.engineBase + off) w) s = { s with port := .busError } ∧
      transact (.write (s.cfg.engineBase + off) w v) s = { s with port := .busError }) ∧
    ((∃ r : Reg, r.access = .ro ∧ r.offset = off) →
      transact (.write (s.cfg.engineBase + off) w v) s = { s with port := .busError })

/-- R69, R325, R32 (d): a 64-bit write of a CMD or RW register of a Busy unit, or of a message entry while Unit B is Busy, is refused:
the unit's OVR becomes 1 and nothing else of the block changes. The port answers ack (log 9). -/
def Obligations.WriteToABusyUnitIsRefused : Prop :=
  ∀ (s : State) (v : Word),
    (∀ r : Reg, r.owner = some .a → (r.access = .rw ∨ r.access = .cmd) → s.unitA.busy = true →
      transact (.write (s.cfg.engineBase + r.offset) .w64 v) s =
        { s with port := .ack, unitA := { s.unitA with status := { s.unitA.status with ovr := true } } }) ∧
    (∀ r : Reg, r.owner = some .b → (r.access = .rw ∨ r.access = .cmd) → s.unitB.busy = true →
      transact (.write (s.cfg.engineBase + r.offset) .w64 v) s =
        { s with port := .ack, unitB := { s.unitB with status := { s.unitB.status with ovr := true } } }) ∧
    (∀ i, i < s.cfg.msgDepth → s.cfg.msgDepth ≤ 256 → s.unitB.busy = true →
      transact (.write (s.cfg.engineBase + msgOffset i) .w64 v) s =
        { s with port := .ack, unitB := { s.unitB with status := { s.unitB.status with ovr := true } } })

/-- R24, R34, R32 (a): a write of a CMD register of an Idle unit is accepted, whatever the value: the word is latched, BUSY becomes 1,
DONE, ERR and ERRCODE 0, OVR stays. The port answers ack (log 9). -/
def Obligations.CommandWriteIsAccepted : Prop :=
  ∀ (s : State) (w : Word),
    (s.unitA.phase = .idle → transact (.write (s.cfg.engineBase + 0x000) .w64 w) s =
      { s with port := .ack, unitA := { s.unitA with
          cmd := w, phase := .busy w, status := { done := false, err := none, ovr := s.unitA.status.ovr } } }) ∧
    (s.unitB.phase = .idle → transact (.write (s.cfg.engineBase + 0x100) .w64 w) s =
      { s with port := .ack, unitB := { s.unitB with
          cmd := w, phase := .busy w .fresh, status := { done := false, err := none, ovr := s.unitB.status.ovr } } })

/-- R21, R71: a write of an RW register of an Idle unit stores all 64 bits; a read returns them, every other register reads as before,
and no message entry, phase or STATUS changes. The port's answers are log 9's. -/
def Obligations.RegisterWriteThenRead : Prop :=
  ∀ (s : State) (r : Reg) (v : Word), r.access = .rw → (∀ u, r.owner = some u → s.busy u = false) →
    ∃ t, transact (.write (s.cfg.engineBase + r.offset) .w64 v) s = t ∧ t.port = .ack ∧
      transact (.read (s.cfg.engineBase + r.offset) .w64) t = { t with port := .data v } ∧
      (∀ r', r' ≠ r → regValue r' t = regValue r' s) ∧ t.mem = s.mem ∧ t.unitA.phase = s.unitA.phase ∧
      t.unitB.phase = s.unitB.phase ∧ t.cfg = s.cfg

/-- R31, R32 (e), D35: a write of STATUS is accepted even while the unit is Busy; bit 3 = 1 clears OVR, and nothing else changes. The
port answers ack (log 9). -/
def Obligations.StatusWriteClearsOnlyOvr : Prop :=
  ∀ (s : State) (v : Word),
    transact (.write (s.cfg.engineBase + 0x008) .w64 v) s =
      { s with port := .ack, unitA := { s.unitA with status := { s.unitA.status with
          ovr := s.unitA.status.ovr && !v.getLsbD 3 } } } ∧
    transact (.write (s.cfg.engineBase + 0x108) .w64 v) s =
      { s with port := .ack, unitB := { s.unitB with status := { s.unitB.status with
          ovr := s.unitB.status.ovr && !v.getLsbD 3 } } }

/-- R31, R280: STATUS as read: BUSY, DONE, ERR, OVR in bits 0 to 3, the code in bits 7:4, every higher bit 0; ERR = 0 implies code 0, and
BUSY = 1 implies DONE, ERR and the code 0. -/
def Obligations.StatusWordLayout : Prop :=
  ∀ (s : State) (u : UnitId) (st : Word), EngineInv s → st = regValue (statusReg u) s →
    st.toNat < 2 ^ 8 ∧ st.getLsbD 0 = s.busy u ∧ st.getLsbD 1 = (statusOf u s).done ∧
      (st.getLsbD 2 = true ↔ (statusOf u s).err ≠ none) ∧ st.getLsbD 3 = (statusOf u s).ovr ∧
      ((statusOf u s).err = none → st.toNat / 2 ^ 4 = 0) ∧
      (∀ c, (statusOf u s).err = some c → st.toNat / 2 ^ 4 = errorNumber c) ∧
      (s.busy u = true → st.getLsbD 1 = false ∧ st.getLsbD 2 = false ∧ st.toNat / 2 ^ 4 = 0)

/-- R33: a host read of INFO, Busy or not, returns PK_WIDTH in 7:0, RANGE_CHECK in 8, MSG_DEPTH in 31:16, bit 32 when a limit is set and
0 in every other bit; no event changes that value. -/
def Obligations.InfoReportsTheConfiguration : Prop :=
  ∀ s : State, s.cfg.WF → ∃ v : Word, transact (.read (s.cfg.engineBase + 0x7F8) .w64) s = { s with port := .data v } ∧
    v.toNat = s.cfg.pkWidth + 2 ^ 8 * s.cfg.rangeCheck.toNat + 2 ^ 16 * s.cfg.msgDepth +
      2 ^ 32 * (s.cfg.attemptLimit != 0).toNat ∧
    ∀ t, step s = .next t → transact (.read (t.cfg.engineBase + 0x7F8) .w64) t = { t with port := .data v }

/-- R68: no host read changes anything of the block. -/
def Obligations.ReadsHaveNoSideEffect : Prop :=
  ∀ (s : State) (addr : Nat) (w : Width), ∃ port k, transact (.read addr w) s = { s with port := port, freeCount := k }

/-- R70: a read of a CMD, STATUS or RW register, or of a result register of an Idle unit, returns the value held; a read of a result
register of a Busy unit, or of a message entry while Unit B is Busy, returns a free value, a fresh one each time (log 5, 6, 9). -/
def Obligations.WhatAReadReturns : Prop :=
  ∀ (s : State),
    (∀ r : Reg, (r.access = .ro → ∀ u, r.owner = some u → s.busy u = false) →
      transact (.read (s.cfg.engineBase + r.offset) .w64) s = { s with port := .data (regValue r s) }) ∧
    (∀ (r : Reg) (u : UnitId), r.access = .ro → r.owner = some u → s.busy u = true →
      transact (.read (s.cfg.engineBase + r.offset) .w64) s =
        { s with port := .data (Config.freeWord s.freeCount), freeCount := s.freeCount + 1 }) ∧
    (∀ i, i < s.cfg.msgDepth → s.cfg.msgDepth ≤ 256 →
      (s.unitB.busy = true ∨ s.mem.readWord (msgOffset i) = none →
        transact (.read (s.cfg.engineBase + msgOffset i) .w64) s =
          { s with port := .data (Config.freeWord s.freeCount), freeCount := s.freeCount + 1 }) ∧
      (∀ v, s.unitB.busy = false → s.mem.readWord (msgOffset i) = some v →
        transact (.read (s.cfg.engineBase + msgOffset i) .w64) s = { s with port := .data v }))

/-- R41, R71: a write of MSG[i] while Unit B is Idle stores the value there; a read returns it; every byte outside the entry and
everything else of the block stays (memory and port as log 6 and 9 hold them). -/
def Obligations.MessageEntryWriteThenRead : Prop :=
  ∀ (s : State) (i : Nat) (v : Word), s.mem.wf → i < s.cfg.msgDepth → s.cfg.msgDepth ≤ 256 → s.unitB.phase = .idle →
    ∃ mem', transact (.write (s.cfg.engineBase + msgOffset i) .w64 v) s = { s with port := .ack, mem := mem' } ∧
      transact (.read (s.cfg.engineBase + msgOffset i) .w64) { s with port := .ack, mem := mem' } =
        { s with port := .data v, mem := mem' } ∧
      (∀ b, b < msgOffset i ∨ msgOffset i + 8 ≤ b → mem'.readByte b = s.mem.readByte b)

/-- R104: the host's turn at a WAIT line reads STATUS and stays at the line exactly while BUSY = 1; at a CHECK line it reads STATUS and
stops the program with a failure exactly when ERR = 1. A stopped program executes no further line whatever the events, so the run of
one stopped before its last line is never over (R329). The turns and the program are the model's (log 3, 10). -/
def Obligations.WaitAndCheckLines : Prop :=
  (∀ s t : State, s.hostFailed = true → step s = .next t →
    t.hostFailed = true ∧ t.host = s.host ∧ (s.host ≠ [] → t.runOver = false)) ∧
  ∀ (s : State) (rest : List Turn) (u : UnitId) (ops : List HostOp), s.sched = .host :: rest → s.hostFailed = false →
    (s.host = .wait u :: ops →
      step s = .next { s with
        sched := rest, port := .data (s.statusWord u), host := if s.busy u then .wait u :: ops else ops }) ∧
    (s.host = .check u :: ops →
      ((s.statusWord u).getLsbD 2 = false →
        step s = .next { s with sched := rest, port := .data (s.statusWord u), host := ops }) ∧
      ((s.statusWord u).getLsbD 2 = true →
        step s = .next { s with sched := rest, port := .data (s.statusWord u), host := ops, hostFailed := true }))

/-- R102, R101: in a program that no CHECK has stopped, the host's turn at a command line of an Idle unit writes the command's word to
its own unit's CMD register, which is accepted, and that unit's next turn runs the command. The turns and the program are the model's
(log 3, 4, 10). -/
def Obligations.CommandLineIssuesTheCommand : Prop :=
  ∀ (s : State) (i : Instr) (ops : List HostOp) (rest : List Turn), s.busy i.unit = false →
    s.hostFailed = false → s.host = assemble s.cfg [.command i] ++ ops →
    (i.unit = .a → s.sched = .host :: .unitA :: rest →
      ∃ t, step s = .next t ∧ t.host = ops ∧ t.unitA.cmd = encode i ∧ t.unitA.phase = .busy (encode i) ∧
        step t = exec i { t with sched := rest }) ∧
    (∀ r, i.unit = .b → s.sched = .host :: .unitB r :: rest →
      ∃ t, step s = .next t ∧ t.host = ops ∧ t.unitB.cmd = encode i ∧ t.unitB.phase = .busy (encode i) .fresh ∧
        step t = exec i { t with sched := rest, entropy := r })
end

