-- ==== Sys2Proof/Laws/Memory.lean ====
section
/-! SUPPORT. The laws of the message buffer: a read after a write, a write leaves every other place alone, every operation keeps the
canonical form. -/

namespace Sys2Proof.Machine

open Sys2Proof

@[simp] theorem readByte_nil (a : Nat) : Memory.readByte [] a = none := rfl

theorem readByte_writeByte (m : Memory) (a b : Nat) (v : Byte) (h : m.wf) :
    (m.writeByte a v).readByte b = if a = b then some v else m.readByte b := by
  induction m with
  | nil => simp [Memory.writeByte, Memory.readByte]
  | cons c rest ih =>
    obtain ⟨k, w⟩ := c
    have ih := ih (List.Pairwise.of_cons h)
    simp only [Memory.writeByte]
    split
    · simp only [Memory.readByte]
    · split
      · subst a
        simp only [Memory.readByte]
        split <;> rfl
      · simp only [Memory.readByte, ih]
        split
        · rw [if_neg (by omega)]
        · rfl

theorem readByte_writeByte_same (m : Memory) (a : Nat) (v : Byte) (h : m.wf) :
    (m.writeByte a v).readByte a = some v := by
  rw [readByte_writeByte m a a v h, if_pos rfl]

theorem readByte_writeByte_ne (m : Memory) {a b : Nat} (v : Byte) (h : m.wf) (hab : a ≠ b) :
    (m.writeByte a v).readByte b = m.readByte b := by
  rw [readByte_writeByte m a b v h, if_neg hab]

theorem mem_writeByte {m : Memory} {a : Nat} {v : Byte} {c : Host.Cell} (h : c ∈ m.writeByte a v) : c = (a, v) ∨ c ∈ m := by
  induction m with
  | nil => exact .inl (by simpa [Memory.writeByte] using h)
  | cons d rest ih =>
    obtain ⟨k, w⟩ := d
    simp only [Memory.writeByte] at h
    split at h
    · simpa using h
    · split at h
      · rcases List.mem_cons.mp h with h | h
        · exact .inl h
        · exact .inr (List.mem_cons_of_mem _ h)
      · rcases List.mem_cons.mp h with h | h
        · exact .inr (h ▸ List.mem_cons_self)
        · exact (ih h).imp_right (List.mem_cons_of_mem _)

theorem writeByte_wf (m : Memory) (a : Nat) (v : Byte) (h : m.wf) : (m.writeByte a v).wf := by
  induction m with
  | nil => exact List.pairwise_singleton _ _
  | cons c rest ih =>
    obtain ⟨k, w⟩ := c
    obtain ⟨hk, hrest⟩ := List.pairwise_cons.mp h
    simp only [Memory.writeByte]
    split
    next hlt =>
      refine List.pairwise_cons.mpr ⟨fun c hc => ?_, h⟩
      rcases List.mem_cons.mp hc with rfl | hc
      · exact hlt
      · exact Nat.lt_trans hlt (hk c hc)
    next hge =>
      split
      next heq => exact List.pairwise_cons.mpr ⟨fun c hc => heq ▸ hk c hc, hrest⟩
      next hne =>
        refine List.pairwise_cons.mpr ⟨fun c hc => ?_, ih hrest⟩
        rcases mem_writeByte hc with rfl | hc
        · exact (by omega : k < a)
        · exact hk c hc

theorem writeBytes_wf (m : Memory) (a : Nat) (v : Word) (k : Nat) (h : m.wf) : (m.writeBytes a v k).wf := by
  induction k with
  | zero => exact h
  | succ k ih => exact writeByte_wf _ _ _ ih

/-- Writing a word keeps the canonical form. -/
theorem writeWord_wf (m : Memory) (a : Nat) (v : Word) (h : m.wf) : (m.writeWord a v).wf := writeBytes_wf m a v 8 h

/-- Writing entries keeps the canonical form. -/
theorem writeEntries_wf (m : Memory) (start : Nat) (vs : List Word) (h : m.wf) : (m.writeEntries start vs).wf := by
  induction vs generalizing m start with
  | nil => exact h
  | cons v rest ih => exact ih _ _ (writeWord_wf m _ v h)

theorem readByte_writeBytes (m : Memory) (a b : Nat) (v : Word) (k : Nat) (h : m.wf) :
    (m.writeBytes a v k).readByte b = if a ≤ b ∧ b < a + k then some (wordByte v (b - a)) else m.readByte b := by
  induction k with
  | zero => rw [if_neg (by omega)]; rfl
  | succ k ih =>
    rw [Memory.writeBytes, readByte_writeByte _ _ _ _ (writeBytes_wf m a v k h), ih]
    by_cases hb : a + k = b
    · subst hb
      rw [if_pos rfl, if_pos (by omega), Nat.add_sub_cancel_left]
    · rw [if_neg hb]
      by_cases hr : a ≤ b ∧ b < a + k
      · rw [if_pos hr, if_pos (by omega)]
      · rw [if_neg hr, if_neg (by omega)]

/-- What a byte reads as after a word has been written. -/
theorem readByte_writeWord (m : Memory) (a b : Nat) (v : Word) (h : m.wf) :
    (m.writeWord a v).readByte b = if a ≤ b ∧ b < a + 8 then some (wordByte v (b - a)) else m.readByte b :=
  readByte_writeBytes m a b v 8 h

/-- A word is its eight bytes, byte 0 the least significant (20_memory R65). -/
theorem append_wordBytes (v : Word) :
    wordByte v 7 ++ wordByte v 6 ++ wordByte v 5 ++ wordByte v 4 ++ wordByte v 3 ++ wordByte v 2 ++ wordByte v 1 ++ wordByte v 0 = v := by
  ext i hi
  simp only [wordByte, BitVec.getElem_append, BitVec.getElem_extractLsb']
  repeat' split
  all_goals (rw [BitVec.getLsbD_eq_getElem (by omega)]; congr 1; omega)

/-- A word read where it was written is the word written. -/
theorem readWord_writeWord_same (m : Memory) (a : Nat) (v : Word) (h : m.wf) : (m.writeWord a v).readWord a = some v := by
  simp only [Memory.readWord, readByte_writeWord m a _ v h]
  simpa [Option.bind] using append_wordBytes v

/-- A word reads as before when none of its bytes has changed. -/
theorem readWord_congr {m m' : Memory} {a : Nat} (h : ∀ b, a ≤ b → b < a + 8 → m'.readByte b = m.readByte b) :
    m'.readWord a = m.readWord a := by
  simp only [Memory.readWord]
  rw [h a (by omega) (by omega), h (a + 1) (by omega) (by omega), h (a + 2) (by omega) (by omega), h (a + 3) (by omega) (by omega),
    h (a + 4) (by omega) (by omega), h (a + 5) (by omega) (by omega), h (a + 6) (by omega) (by omega), h (a + 7) (by omega) (by omega)]

/-- A word that shares no byte with the one written reads as before. -/
theorem readWord_writeWord_disjoint (m : Memory) {a b : Nat} (v : Word) (h : m.wf) (hab : a + 8 ≤ b ∨ b + 8 ≤ a) :
    (m.writeWord a v).readWord b = m.readWord b :=
  readWord_congr fun c _ _ => by rw [readByte_writeWord m a c v h, if_neg (by omega)]

/-- Another entry reads as before. -/
theorem readWord_writeWord_entry_ne (m : Memory) {i j : Nat} (v : Word) (h : m.wf) (hij : i ≠ j) :
    (m.writeWord (msgOffset i) v).readWord (msgOffset j) = m.readWord (msgOffset j) :=
  readWord_writeWord_disjoint m v h (by unfold msgOffset; omega)

/-- Bytes outside the entries written read as before. -/
theorem readByte_writeEntries_outside (m : Memory) (start b : Nat) (vs : List Word) (h : m.wf)
    (hb : b < msgOffset start ∨ msgOffset (start + vs.length) ≤ b) : (m.writeEntries start vs).readByte b = m.readByte b := by
  induction vs generalizing m start with
  | nil => rfl
  | cons v rest ih =>
    simp only [List.length_cons, msgOffset] at hb ih
    rw [Memory.writeEntries, ih _ _ (writeWord_wf m _ v h) (by omega), readByte_writeWord m _ b v h, msgOffset, if_neg (by omega)]

/-- An entry reads as what was written there. -/
theorem readWord_writeEntries (m : Memory) (start i : Nat) (vs : List Word) (h : m.wf) (hi : i < vs.length) :
    (m.writeEntries start vs).readWord (msgOffset (start + i)) = some vs[i] := by
  induction vs generalizing m start i with
  | nil => simp at hi
  | cons v rest ih =>
    rw [Memory.writeEntries]
    cases i with
    | zero =>
      refine (readWord_congr fun c _ hc => ?_).trans (readWord_writeWord_same m (msgOffset start) v h)
      exact readByte_writeEntries_outside _ _ _ _ (writeWord_wf m _ v h) (.inl (by simp only [msgOffset] at *; omega))
    | succ i =>
      have := ih (m.writeWord (msgOffset start) v) (start + 1) i (writeWord_wf m _ v h) (by simpa using hi)
      rwa [show start + 1 + i = start + (i + 1) by omega] at this

end Sys2Proof.Machine
end

