-- ==== Sys2Proof/Laws/State.lean ====
section
/-! SUPPORT. What each update of the state does to each field, one lemma a field, so that no proof unfolds a record update. -/

namespace Sys2Proof.Machine

open Sys2Proof

@[simp] theorem mapA_cfg (f : UnitA → UnitA) (s : State) : (s.mapA f).cfg = s.cfg := rfl
@[simp] theorem mapA_unitA (f : UnitA → UnitA) (s : State) : (s.mapA f).unitA = f s.unitA := rfl
@[simp] theorem mapA_unitB (f : UnitA → UnitA) (s : State) : (s.mapA f).unitB = s.unitB := rfl
@[simp] theorem mapA_mem (f : UnitA → UnitA) (s : State) : (s.mapA f).mem = s.mem := rfl
@[simp] theorem mapA_entropy (f : UnitA → UnitA) (s : State) : (s.mapA f).entropy = s.entropy := rfl
@[simp] theorem mapA_sched (f : UnitA → UnitA) (s : State) : (s.mapA f).sched = s.sched := rfl
@[simp] theorem mapA_host (f : UnitA → UnitA) (s : State) : (s.mapA f).host = s.host := rfl
@[simp] theorem mapA_hostFailed (f : UnitA → UnitA) (s : State) : (s.mapA f).hostFailed = s.hostFailed := rfl
@[simp] theorem mapA_port (f : UnitA → UnitA) (s : State) : (s.mapA f).port = s.port := rfl
@[simp] theorem mapA_freeCount (f : UnitA → UnitA) (s : State) : (s.mapA f).freeCount = s.freeCount := rfl

@[simp] theorem mapB_cfg (f : UnitB → UnitB) (s : State) : (s.mapB f).cfg = s.cfg := rfl
@[simp] theorem mapB_unitA (f : UnitB → UnitB) (s : State) : (s.mapB f).unitA = s.unitA := rfl
@[simp] theorem mapB_unitB (f : UnitB → UnitB) (s : State) : (s.mapB f).unitB = f s.unitB := rfl
@[simp] theorem mapB_mem (f : UnitB → UnitB) (s : State) : (s.mapB f).mem = s.mem := rfl
@[simp] theorem mapB_entropy (f : UnitB → UnitB) (s : State) : (s.mapB f).entropy = s.entropy := rfl
@[simp] theorem mapB_sched (f : UnitB → UnitB) (s : State) : (s.mapB f).sched = s.sched := rfl
@[simp] theorem mapB_host (f : UnitB → UnitB) (s : State) : (s.mapB f).host = s.host := rfl
@[simp] theorem mapB_hostFailed (f : UnitB → UnitB) (s : State) : (s.mapB f).hostFailed = s.hostFailed := rfl
@[simp] theorem mapB_port (f : UnitB → UnitB) (s : State) : (s.mapB f).port = s.port := rfl
@[simp] theorem mapB_freeCount (f : UnitB → UnitB) (s : State) : (s.mapB f).freeCount = s.freeCount := rfl

@[simp] theorem answer_cfg (r : PortResponse) (s : State) : (answer r s).cfg = s.cfg := rfl
@[simp] theorem answer_unitA (r : PortResponse) (s : State) : (answer r s).unitA = s.unitA := rfl
@[simp] theorem answer_unitB (r : PortResponse) (s : State) : (answer r s).unitB = s.unitB := rfl
@[simp] theorem answer_mem (r : PortResponse) (s : State) : (answer r s).mem = s.mem := rfl
@[simp] theorem answer_entropy (r : PortResponse) (s : State) : (answer r s).entropy = s.entropy := rfl
@[simp] theorem answer_sched (r : PortResponse) (s : State) : (answer r s).sched = s.sched := rfl
@[simp] theorem answer_host (r : PortResponse) (s : State) : (answer r s).host = s.host := rfl
@[simp] theorem answer_hostFailed (r : PortResponse) (s : State) : (answer r s).hostFailed = s.hostFailed := rfl
@[simp] theorem answer_port (r : PortResponse) (s : State) : (answer r s).port = r := rfl
@[simp] theorem answer_freeCount (r : PortResponse) (s : State) : (answer r s).freeCount = s.freeCount := rfl

@[simp] theorem freshWord_snd_cfg (s : State) : ((freshWord s).2).cfg = s.cfg := rfl
@[simp] theorem freshWord_snd_unitA (s : State) : ((freshWord s).2).unitA = s.unitA := rfl
@[simp] theorem freshWord_snd_unitB (s : State) : ((freshWord s).2).unitB = s.unitB := rfl
@[simp] theorem freshWord_snd_mem (s : State) : ((freshWord s).2).mem = s.mem := rfl
@[simp] theorem freshWord_snd_entropy (s : State) : ((freshWord s).2).entropy = s.entropy := rfl
@[simp] theorem freshWord_snd_sched (s : State) : ((freshWord s).2).sched = s.sched := rfl
@[simp] theorem freshWord_snd_host (s : State) : ((freshWord s).2).host = s.host := rfl
@[simp] theorem freshWord_snd_hostFailed (s : State) : ((freshWord s).2).hostFailed = s.hostFailed := rfl
@[simp] theorem freshWord_snd_port (s : State) : ((freshWord s).2).port = s.port := rfl
@[simp] theorem freshWord_snd_freeCount (s : State) : ((freshWord s).2).freeCount = s.freeCount + 1 := rfl

@[simp] theorem storeEntries_cfg (vs : List Word) (s : State) : (storeEntries vs s).cfg = s.cfg := rfl
@[simp] theorem storeEntries_unitA (vs : List Word) (s : State) : (storeEntries vs s).unitA = s.unitA := rfl
@[simp] theorem storeEntries_unitB (vs : List Word) (s : State) : (storeEntries vs s).unitB = s.unitB := rfl
@[simp] theorem storeEntries_mem (vs : List Word) (s : State) : (storeEntries vs s).mem = s.mem.writeEntries 0 vs := rfl
@[simp] theorem storeEntries_entropy (vs : List Word) (s : State) : (storeEntries vs s).entropy = s.entropy := rfl
@[simp] theorem storeEntries_sched (vs : List Word) (s : State) : (storeEntries vs s).sched = s.sched := rfl
@[simp] theorem storeEntries_host (vs : List Word) (s : State) : (storeEntries vs s).host = s.host := rfl
@[simp] theorem storeEntries_hostFailed (vs : List Word) (s : State) : (storeEntries vs s).hostFailed = s.hostFailed := rfl
@[simp] theorem storeEntries_port (vs : List Word) (s : State) : (storeEntries vs s).port = s.port := rfl
@[simp] theorem storeEntries_freeCount (vs : List Word) (s : State) : (storeEntries vs s).freeCount = s.freeCount := rfl

@[simp] theorem resetBlock_cfg (s : State) : (resetBlock s).cfg = s.cfg := rfl
@[simp] theorem resetBlock_unitA (s : State) : (resetBlock s).unitA = UnitA.reset := rfl
@[simp] theorem resetBlock_unitB (s : State) : (resetBlock s).unitB = UnitB.reset := rfl
@[simp] theorem resetBlock_mem (s : State) : (resetBlock s).mem = [] := rfl
@[simp] theorem resetBlock_entropy (s : State) : (resetBlock s).entropy = s.entropy := rfl
@[simp] theorem resetBlock_sched (s : State) : (resetBlock s).sched = s.sched := rfl
@[simp] theorem resetBlock_host (s : State) : (resetBlock s).host = s.host := rfl
@[simp] theorem resetBlock_hostFailed (s : State) : (resetBlock s).hostFailed = s.hostFailed := rfl
@[simp] theorem resetBlock_port (s : State) : (resetBlock s).port = s.port := rfl
@[simp] theorem resetBlock_freeCount (s : State) : (resetBlock s).freeCount = s.freeCount := rfl

@[simp] theorem freshWord_fst (s : State) : (freshWord s).1 = Config.freeWord s.freeCount := rfl

@[simp] theorem UnitA.accept_cmd (w : Word) (a : UnitA) : (a.accept w).cmd = w := rfl
@[simp] theorem UnitA.accept_key (w : Word) (a : UnitA) : (a.accept w).key = a.key := rfl
@[simp] theorem UnitA.accept_src (w : Word) (a : UnitA) : (a.accept w).src = a.src := rfl
@[simp] theorem UnitA.accept_subkey (w : Word) (a : UnitA) : (a.accept w).subkey = a.subkey := rfl
@[simp] theorem UnitA.accept_res (w : Word) (a : UnitA) : (a.accept w).res = a.res := rfl
@[simp] theorem UnitA.accept_k1 (w : Word) (a : UnitA) : (a.accept w).k1 = a.k1 := rfl
@[simp] theorem UnitA.accept_k2 (w : Word) (a : UnitA) : (a.accept w).k2 = a.k2 := rfl
@[simp] theorem UnitA.accept_status (w : Word) (a : UnitA) : (a.accept w).status = a.status.accept := rfl
@[simp] theorem UnitA.accept_phase (w : Word) (a : UnitA) : (a.accept w).phase = .busy w := rfl

@[simp] theorem UnitA.complete_cmd (a : UnitA) : (a.complete).cmd = a.cmd := rfl
@[simp] theorem UnitA.complete_key (a : UnitA) : (a.complete).key = a.key := rfl
@[simp] theorem UnitA.complete_src (a : UnitA) : (a.complete).src = a.src := rfl
@[simp] theorem UnitA.complete_subkey (a : UnitA) : (a.complete).subkey = a.subkey := rfl
@[simp] theorem UnitA.complete_res (a : UnitA) : (a.complete).res = a.res := rfl
@[simp] theorem UnitA.complete_k1 (a : UnitA) : (a.complete).k1 = a.k1 := rfl
@[simp] theorem UnitA.complete_k2 (a : UnitA) : (a.complete).k2 = a.k2 := rfl
@[simp] theorem UnitA.complete_status (a : UnitA) : (a.complete).status = a.status.complete := rfl
@[simp] theorem UnitA.complete_phase (a : UnitA) : (a.complete).phase = .idle := rfl

@[simp] theorem UnitA.fail_cmd (c : ErrCode) (a : UnitA) : (a.fail c).cmd = a.cmd := rfl
@[simp] theorem UnitA.fail_key (c : ErrCode) (a : UnitA) : (a.fail c).key = a.key := rfl
@[simp] theorem UnitA.fail_src (c : ErrCode) (a : UnitA) : (a.fail c).src = a.src := rfl
@[simp] theorem UnitA.fail_subkey (c : ErrCode) (a : UnitA) : (a.fail c).subkey = a.subkey := rfl
@[simp] theorem UnitA.fail_res (c : ErrCode) (a : UnitA) : (a.fail c).res = a.res := rfl
@[simp] theorem UnitA.fail_k1 (c : ErrCode) (a : UnitA) : (a.fail c).k1 = a.k1 := rfl
@[simp] theorem UnitA.fail_k2 (c : ErrCode) (a : UnitA) : (a.fail c).k2 = a.k2 := rfl
@[simp] theorem UnitA.fail_status (c : ErrCode) (a : UnitA) : (a.fail c).status = a.status.fail c := rfl
@[simp] theorem UnitA.fail_phase (c : ErrCode) (a : UnitA) : (a.fail c).phase = .idle := rfl

@[simp] theorem UnitB.accept_cmd (w : Word) (b : UnitB) : (b.accept w).cmd = w := rfl
@[simp] theorem UnitB.accept_x (w : Word) (b : UnitB) : (b.accept w).x = b.x := rfl
@[simp] theorem UnitB.accept_y (w : Word) (b : UnitB) : (b.accept w).y = b.y := rfl
@[simp] theorem UnitB.accept_m (w : Word) (b : UnitB) : (b.accept w).m = b.m := rfl
@[simp] theorem UnitB.accept_l (w : Word) (b : UnitB) : (b.accept w).l = b.l := rfl
@[simp] theorem UnitB.accept_res (w : Word) (b : UnitB) : (b.accept w).res = b.res := rfl
@[simp] theorem UnitB.accept_res2 (w : Word) (b : UnitB) : (b.accept w).res2 = b.res2 := rfl
@[simp] theorem UnitB.accept_res3 (w : Word) (b : UnitB) : (b.accept w).res3 = b.res3 := rfl
@[simp] theorem UnitB.accept_msgLen (w : Word) (b : UnitB) : (b.accept w).msgLen = b.msgLen := rfl
@[simp] theorem UnitB.accept_n (w : Word) (b : UnitB) : (b.accept w).n = b.n := rfl
@[simp] theorem UnitB.accept_e (w : Word) (b : UnitB) : (b.accept w).e = b.e := rfl
@[simp] theorem UnitB.accept_d (w : Word) (b : UnitB) : (b.accept w).d = b.d := rfl
@[simp] theorem UnitB.accept_p (w : Word) (b : UnitB) : (b.accept w).p = b.p := rfl
@[simp] theorem UnitB.accept_q (w : Word) (b : UnitB) : (b.accept w).q = b.q := rfl
@[simp] theorem UnitB.accept_phi (w : Word) (b : UnitB) : (b.accept w).phi = b.phi := rfl
@[simp] theorem UnitB.accept_attempts (w : Word) (b : UnitB) : (b.accept w).attempts = b.attempts := rfl
@[simp] theorem UnitB.accept_status (w : Word) (b : UnitB) : (b.accept w).status = b.status.accept := rfl
@[simp] theorem UnitB.accept_phase (w : Word) (b : UnitB) : (b.accept w).phase = .busy w .fresh := rfl

@[simp] theorem UnitB.complete_cmd (b : UnitB) : (b.complete).cmd = b.cmd := rfl
@[simp] theorem UnitB.complete_x (b : UnitB) : (b.complete).x = b.x := rfl
@[simp] theorem UnitB.complete_y (b : UnitB) : (b.complete).y = b.y := rfl
@[simp] theorem UnitB.complete_m (b : UnitB) : (b.complete).m = b.m := rfl
@[simp] theorem UnitB.complete_l (b : UnitB) : (b.complete).l = b.l := rfl
@[simp] theorem UnitB.complete_res (b : UnitB) : (b.complete).res = b.res := rfl
@[simp] theorem UnitB.complete_res2 (b : UnitB) : (b.complete).res2 = b.res2 := rfl
@[simp] theorem UnitB.complete_res3 (b : UnitB) : (b.complete).res3 = b.res3 := rfl
@[simp] theorem UnitB.complete_msgLen (b : UnitB) : (b.complete).msgLen = b.msgLen := rfl
@[simp] theorem UnitB.complete_n (b : UnitB) : (b.complete).n = b.n := rfl
@[simp] theorem UnitB.complete_e (b : UnitB) : (b.complete).e = b.e := rfl
@[simp] theorem UnitB.complete_d (b : UnitB) : (b.complete).d = b.d := rfl
@[simp] theorem UnitB.complete_p (b : UnitB) : (b.complete).p = b.p := rfl
@[simp] theorem UnitB.complete_q (b : UnitB) : (b.complete).q = b.q := rfl
@[simp] theorem UnitB.complete_phi (b : UnitB) : (b.complete).phi = b.phi := rfl
@[simp] theorem UnitB.complete_attempts (b : UnitB) : (b.complete).attempts = b.attempts := rfl
@[simp] theorem UnitB.complete_status (b : UnitB) : (b.complete).status = b.status.complete := rfl
@[simp] theorem UnitB.complete_phase (b : UnitB) : (b.complete).phase = .idle := rfl

@[simp] theorem UnitB.fail_cmd (c : ErrCode) (b : UnitB) : (b.fail c).cmd = b.cmd := rfl
@[simp] theorem UnitB.fail_x (c : ErrCode) (b : UnitB) : (b.fail c).x = b.x := rfl
@[simp] theorem UnitB.fail_y (c : ErrCode) (b : UnitB) : (b.fail c).y = b.y := rfl
@[simp] theorem UnitB.fail_m (c : ErrCode) (b : UnitB) : (b.fail c).m = b.m := rfl
@[simp] theorem UnitB.fail_l (c : ErrCode) (b : UnitB) : (b.fail c).l = b.l := rfl
@[simp] theorem UnitB.fail_res (c : ErrCode) (b : UnitB) : (b.fail c).res = b.res := rfl
@[simp] theorem UnitB.fail_res2 (c : ErrCode) (b : UnitB) : (b.fail c).res2 = b.res2 := rfl
@[simp] theorem UnitB.fail_res3 (c : ErrCode) (b : UnitB) : (b.fail c).res3 = b.res3 := rfl
@[simp] theorem UnitB.fail_msgLen (c : ErrCode) (b : UnitB) : (b.fail c).msgLen = b.msgLen := rfl
@[simp] theorem UnitB.fail_n (c : ErrCode) (b : UnitB) : (b.fail c).n = b.n := rfl
@[simp] theorem UnitB.fail_e (c : ErrCode) (b : UnitB) : (b.fail c).e = b.e := rfl
@[simp] theorem UnitB.fail_d (c : ErrCode) (b : UnitB) : (b.fail c).d = b.d := rfl
@[simp] theorem UnitB.fail_p (c : ErrCode) (b : UnitB) : (b.fail c).p = b.p := rfl
@[simp] theorem UnitB.fail_q (c : ErrCode) (b : UnitB) : (b.fail c).q = b.q := rfl
@[simp] theorem UnitB.fail_phi (c : ErrCode) (b : UnitB) : (b.fail c).phi = b.phi := rfl
@[simp] theorem UnitB.fail_attempts (c : ErrCode) (b : UnitB) : (b.fail c).attempts = b.attempts := rfl
@[simp] theorem UnitB.fail_status (c : ErrCode) (b : UnitB) : (b.fail c).status = b.status.fail c := rfl
@[simp] theorem UnitB.fail_phase (c : ErrCode) (b : UnitB) : (b.fail c).phase = .idle := rfl

@[simp] theorem resultB_cmd (n : Nat) (b : UnitB) : (resultB n b).cmd = b.cmd := rfl
@[simp] theorem resultB_x (n : Nat) (b : UnitB) : (resultB n b).x = b.x := rfl
@[simp] theorem resultB_y (n : Nat) (b : UnitB) : (resultB n b).y = b.y := rfl
@[simp] theorem resultB_m (n : Nat) (b : UnitB) : (resultB n b).m = b.m := rfl
@[simp] theorem resultB_l (n : Nat) (b : UnitB) : (resultB n b).l = b.l := rfl
@[simp] theorem resultB_res (n : Nat) (b : UnitB) : (resultB n b).res = reg64 n := rfl
@[simp] theorem resultB_res2 (n : Nat) (b : UnitB) : (resultB n b).res2 = b.res2 := rfl
@[simp] theorem resultB_res3 (n : Nat) (b : UnitB) : (resultB n b).res3 = b.res3 := rfl
@[simp] theorem resultB_msgLen (n : Nat) (b : UnitB) : (resultB n b).msgLen = b.msgLen := rfl
@[simp] theorem resultB_n (n : Nat) (b : UnitB) : (resultB n b).n = b.n := rfl
@[simp] theorem resultB_e (n : Nat) (b : UnitB) : (resultB n b).e = b.e := rfl
@[simp] theorem resultB_d (n : Nat) (b : UnitB) : (resultB n b).d = b.d := rfl
@[simp] theorem resultB_p (n : Nat) (b : UnitB) : (resultB n b).p = b.p := rfl
@[simp] theorem resultB_q (n : Nat) (b : UnitB) : (resultB n b).q = b.q := rfl
@[simp] theorem resultB_phi (n : Nat) (b : UnitB) : (resultB n b).phi = b.phi := rfl
@[simp] theorem resultB_attempts (n : Nat) (b : UnitB) : (resultB n b).attempts = b.attempts := rfl
@[simp] theorem resultB_status (n : Nat) (b : UnitB) : (resultB n b).status = b.status := rfl
@[simp] theorem resultB_phase (n : Nat) (b : UnitB) : (resultB n b).phase = b.phase := rfl

@[simp] theorem setAttempts_cmd (n : Nat) (b : UnitB) : (setAttempts n b).cmd = b.cmd := rfl
@[simp] theorem setAttempts_x (n : Nat) (b : UnitB) : (setAttempts n b).x = b.x := rfl
@[simp] theorem setAttempts_y (n : Nat) (b : UnitB) : (setAttempts n b).y = b.y := rfl
@[simp] theorem setAttempts_m (n : Nat) (b : UnitB) : (setAttempts n b).m = b.m := rfl
@[simp] theorem setAttempts_l (n : Nat) (b : UnitB) : (setAttempts n b).l = b.l := rfl
@[simp] theorem setAttempts_res (n : Nat) (b : UnitB) : (setAttempts n b).res = b.res := rfl
@[simp] theorem setAttempts_res2 (n : Nat) (b : UnitB) : (setAttempts n b).res2 = b.res2 := rfl
@[simp] theorem setAttempts_res3 (n : Nat) (b : UnitB) : (setAttempts n b).res3 = b.res3 := rfl
@[simp] theorem setAttempts_msgLen (n : Nat) (b : UnitB) : (setAttempts n b).msgLen = b.msgLen := rfl
@[simp] theorem setAttempts_n (n : Nat) (b : UnitB) : (setAttempts n b).n = b.n := rfl
@[simp] theorem setAttempts_e (n : Nat) (b : UnitB) : (setAttempts n b).e = b.e := rfl
@[simp] theorem setAttempts_d (n : Nat) (b : UnitB) : (setAttempts n b).d = b.d := rfl
@[simp] theorem setAttempts_p (n : Nat) (b : UnitB) : (setAttempts n b).p = b.p := rfl
@[simp] theorem setAttempts_q (n : Nat) (b : UnitB) : (setAttempts n b).q = b.q := rfl
@[simp] theorem setAttempts_phi (n : Nat) (b : UnitB) : (setAttempts n b).phi = b.phi := rfl
@[simp] theorem setAttempts_attempts (n : Nat) (b : UnitB) : (setAttempts n b).attempts = saturate64 n := rfl
@[simp] theorem setAttempts_status (n : Nat) (b : UnitB) : (setAttempts n b).status = b.status := rfl
@[simp] theorem setAttempts_phase (n : Nat) (b : UnitB) : (setAttempts n b).phase = b.phase := rfl

@[simp] theorem writeEgcd_cmd (r : Nat × Int × Int) (b : UnitB) : (writeEgcd r b).cmd = b.cmd := rfl
@[simp] theorem writeEgcd_x (r : Nat × Int × Int) (b : UnitB) : (writeEgcd r b).x = b.x := rfl
@[simp] theorem writeEgcd_y (r : Nat × Int × Int) (b : UnitB) : (writeEgcd r b).y = b.y := rfl
@[simp] theorem writeEgcd_m (r : Nat × Int × Int) (b : UnitB) : (writeEgcd r b).m = b.m := rfl
@[simp] theorem writeEgcd_l (r : Nat × Int × Int) (b : UnitB) : (writeEgcd r b).l = b.l := rfl
@[simp] theorem writeEgcd_res (r : Nat × Int × Int) (b : UnitB) : (writeEgcd r b).res = reg64 r.1 := rfl
@[simp] theorem writeEgcd_res2 (r : Nat × Int × Int) (b : UnitB) : (writeEgcd r b).res2 = BitVec.ofInt 64 r.2.1 := rfl
@[simp] theorem writeEgcd_res3 (r : Nat × Int × Int) (b : UnitB) : (writeEgcd r b).res3 = BitVec.ofInt 64 r.2.2 := rfl
@[simp] theorem writeEgcd_msgLen (r : Nat × Int × Int) (b : UnitB) : (writeEgcd r b).msgLen = b.msgLen := rfl
@[simp] theorem writeEgcd_n (r : Nat × Int × Int) (b : UnitB) : (writeEgcd r b).n = b.n := rfl
@[simp] theorem writeEgcd_e (r : Nat × Int × Int) (b : UnitB) : (writeEgcd r b).e = b.e := rfl
@[simp] theorem writeEgcd_d (r : Nat × Int × Int) (b : UnitB) : (writeEgcd r b).d = b.d := rfl
@[simp] theorem writeEgcd_p (r : Nat × Int × Int) (b : UnitB) : (writeEgcd r b).p = b.p := rfl
@[simp] theorem writeEgcd_q (r : Nat × Int × Int) (b : UnitB) : (writeEgcd r b).q = b.q := rfl
@[simp] theorem writeEgcd_phi (r : Nat × Int × Int) (b : UnitB) : (writeEgcd r b).phi = b.phi := rfl
@[simp] theorem writeEgcd_attempts (r : Nat × Int × Int) (b : UnitB) : (writeEgcd r b).attempts = b.attempts := rfl
@[simp] theorem writeEgcd_status (r : Nat × Int × Int) (b : UnitB) : (writeEgcd r b).status = b.status := rfl
@[simp] theorem writeEgcd_phase (r : Nat × Int × Int) (b : UnitB) : (writeEgcd r b).phase = b.phase := rfl

@[simp] theorem writeKeyPair_cmd (p q : Nat) (k : Nat × Nat × Nat × Nat) (b : UnitB) : (writeKeyPair p q k b).cmd = b.cmd := rfl
@[simp] theorem writeKeyPair_x (p q : Nat) (k : Nat × Nat × Nat × Nat) (b : UnitB) : (writeKeyPair p q k b).x = b.x := rfl
@[simp] theorem writeKeyPair_y (p q : Nat) (k : Nat × Nat × Nat × Nat) (b : UnitB) : (writeKeyPair p q k b).y = b.y := rfl
@[simp] theorem writeKeyPair_m (p q : Nat) (k : Nat × Nat × Nat × Nat) (b : UnitB) : (writeKeyPair p q k b).m = b.m := rfl
@[simp] theorem writeKeyPair_l (p q : Nat) (k : Nat × Nat × Nat × Nat) (b : UnitB) : (writeKeyPair p q k b).l = b.l := rfl
@[simp] theorem writeKeyPair_res (p q : Nat) (k : Nat × Nat × Nat × Nat) (b : UnitB) : (writeKeyPair p q k b).res = b.res := rfl
@[simp] theorem writeKeyPair_res2 (p q : Nat) (k : Nat × Nat × Nat × Nat) (b : UnitB) : (writeKeyPair p q k b).res2 = b.res2 := rfl
@[simp] theorem writeKeyPair_res3 (p q : Nat) (k : Nat × Nat × Nat × Nat) (b : UnitB) : (writeKeyPair p q k b).res3 = b.res3 := rfl
@[simp] theorem writeKeyPair_msgLen (p q : Nat) (k : Nat × Nat × Nat × Nat) (b : UnitB) : (writeKeyPair p q k b).msgLen = b.msgLen := rfl
@[simp] theorem writeKeyPair_n (p q : Nat) (k : Nat × Nat × Nat × Nat) (b : UnitB) : (writeKeyPair p q k b).n = reg64 k.1 := rfl
@[simp] theorem writeKeyPair_e (p q : Nat) (k : Nat × Nat × Nat × Nat) (b : UnitB) : (writeKeyPair p q k b).e = reg64 k.2.2.1 := rfl
@[simp] theorem writeKeyPair_d (p q : Nat) (k : Nat × Nat × Nat × Nat) (b : UnitB) : (writeKeyPair p q k b).d = reg64 k.2.2.2 := rfl
@[simp] theorem writeKeyPair_p (p q : Nat) (k : Nat × Nat × Nat × Nat) (b : UnitB) : (writeKeyPair p q k b).p = reg64 p := rfl
@[simp] theorem writeKeyPair_q (p q : Nat) (k : Nat × Nat × Nat × Nat) (b : UnitB) : (writeKeyPair p q k b).q = reg64 q := rfl
@[simp] theorem writeKeyPair_phi (p q : Nat) (k : Nat × Nat × Nat × Nat) (b : UnitB) : (writeKeyPair p q k b).phi = reg64 k.2.1 := rfl
@[simp] theorem writeKeyPair_attempts (p q : Nat) (k : Nat × Nat × Nat × Nat) (b : UnitB) : (writeKeyPair p q k b).attempts = b.attempts := rfl
@[simp] theorem writeKeyPair_status (p q : Nat) (k : Nat × Nat × Nat × Nat) (b : UnitB) : (writeKeyPair p q k b).status = b.status := rfl
@[simp] theorem writeKeyPair_phase (p q : Nat) (k : Nat × Nat × Nat × Nat) (b : UnitB) : (writeKeyPair p q k b).phase = b.phase := rfl

@[simp] theorem Status.accept_done (st : Status) : (st.accept).done = false := rfl
@[simp] theorem Status.accept_err (st : Status) : (st.accept).err = none := rfl
@[simp] theorem Status.accept_ovr (st : Status) : (st.accept).ovr = st.ovr := rfl

@[simp] theorem Status.complete_done (st : Status) : (st.complete).done = true := rfl
@[simp] theorem Status.complete_err (st : Status) : (st.complete).err = none := rfl
@[simp] theorem Status.complete_ovr (st : Status) : (st.complete).ovr = st.ovr := rfl

@[simp] theorem Status.fail_done (c : ErrCode) (st : Status) : (st.fail c).done = true := rfl
@[simp] theorem Status.fail_err (c : ErrCode) (st : Status) : (st.fail c).err = some c := rfl
@[simp] theorem Status.fail_ovr (c : ErrCode) (st : Status) : (st.fail c).ovr = st.ovr := rfl

@[simp] theorem Status.overrun_done (st : Status) : (st.overrun).done = st.done := rfl
@[simp] theorem Status.overrun_err (st : Status) : (st.overrun).err = st.err := rfl
@[simp] theorem Status.overrun_ovr (st : Status) : (st.overrun).ovr = true := rfl

@[simp] theorem Status.hostWrite_done (v : Word) (st : Status) : (st.hostWrite v).done = st.done := by
  unfold Status.hostWrite; split <;> rfl

@[simp] theorem Status.hostWrite_err (v : Word) (st : Status) : (st.hostWrite v).err = st.err := by
  unfold Status.hostWrite; split <;> rfl

@[simp] theorem Status.hostWrite_ovr (v : Word) (st : Status) :
    (st.hostWrite v).ovr = (st.ovr && !v.getLsbD 3) := by
  unfold Status.hostWrite; split <;> simp_all

/-- The completion state of the claims is the one the completion step makes. -/
theorem mapA_complete_eq_okA (f : UnitA → UnitA) (s : State) : s.mapA (fun a => (f a).complete) = okA s (f s.unitA) := rfl

theorem mapB_complete_eq_okB (f : UnitB → UnitB) (s : State) : s.mapB (fun b => (f b).complete) = okB s (f s.unitB) := rfl

theorem mapA_fail_eq_errA (c : ErrCode) (s : State) : s.mapA (UnitA.fail c) = errA s c := rfl

theorem mapB_fail_eq_errB (c : ErrCode) (s : State) : s.mapB (UnitB.fail c) = errB s c := rfl

@[simp] theorem unitA_busy_idle (a : UnitA) (h : a.phase = .idle) : a.busy = false := by simp [UnitA.busy, h]

@[simp] theorem unitB_busy_idle (b : UnitB) (h : b.phase = .idle) : b.busy = false := by simp [UnitB.busy, h]

end Sys2Proof.Machine
end

