-- ==== Sys2Proof/Laws/Ops.lean ====
section
/-! SUPPORT. What each shared operation of the meanings can do, said once. -/

namespace Sys2Proof.Machine

open Sys2Proof

/-- A check either holds and the command goes on, or the error is raised. -/
theorem require_cases (p : Prop) [Decidable p] (u : UnitId) (c : ErrCode) (s : State) (go : Result) :
    (p ∧ require p u c s go = go) ∨ (¬p ∧ require p u c s go = raiseError u c s) := by
  unfold require
  by_cases h : p
  · exact .inl ⟨h, if_pos h⟩
  · exact .inr ⟨h, if_neg h⟩

theorem require_pos {p : Prop} [Decidable p] (h : p) (u : UnitId) (c : ErrCode) (s : State) (go : Result) :
    require p u c s go = go := if_pos h

theorem require_neg {p : Prop} [Decidable p] (h : ¬p) (u : UnitId) (c : ErrCode) (s : State) (go : Result) :
    require p u c s go = raiseError u c s := if_neg h

theorem raiseError_a (c : ErrCode) (s : State) : raiseError .a c s = .next (errA s c) := rfl

theorem raiseError_b (c : ErrCode) (s : State) : raiseError .b c s = .next (errB s c) := rfl

theorem completeA_eq (f : UnitA → UnitA) (s : State) : completeA f s = .next (okA s (f s.unitA)) := rfl

theorem completeB_eq (f : UnitB → UnitB) (s : State) : completeB f s = .next (okB s (f s.unitB)) := rfl

theorem stayBusy_eq (search : Search) (s : State) :
    stayBusy search s = .next { s with unitB := { s.unitB with phase := .busy s.unitB.latched search } } := rfl

/-- The A_SRC to A_RES shape: the result, or CONTRACT. -/
theorem srcToRes_eq (n : Nat) {m : Nat} (f : BitVec n → BitVec m) (s : State) :
    srcToRes n f s = if Fits s.unitA.src n then .next (okA s { s.unitA with res := zext (f (low n s.unitA.src)) })
      else .next (errA s .contract) := rfl

/-- The A_SRC and A_SUBKEY shape: the result, or CONTRACT. -/
theorem srcSubkeyToRes_eq {m : Nat} (f : BitVec 8 → BitVec 8 → BitVec m) (s : State) :
    srcSubkeyToRes f s = if Fits s.unitA.src 8 ∧ Fits s.unitA.subkey 8 then
      .next (okA s { s.unitA with res := zext (f (low 8 s.unitA.subkey) (low 8 s.unitA.src)) })
      else .next (errA s .contract) := by
  unfold srcSubkeyToRes require
  split_ifs <;> first | rfl | (exfalso; tauto)

/-- The A_SRC and A_KEY shape: the result, or CONTRACT. -/
theorem srcKeyToRes_eq (f : BitVec 8 → BitVec 10 → BitVec 8) (s : State) :
    srcKeyToRes f s = if Fits s.unitA.src 8 ∧ Fits s.unitA.key 10 then
      .next (okA s { s.unitA with res := zext (f (low 8 s.unitA.src) (low 10 s.unitA.key)) })
      else .next (errA s .contract) := by
  unfold srcKeyToRes require
  split_ifs <;> first | rfl | (exfalso; tauto)

/-- A register operand that fits n bits is its low n bits. -/
theorem toNat_low {n : Nat} {v : Word} (h : Fits v n) : (low n v).toNat = v.toNat := by
  rw [low, BitVec.toNat_setWidth, Nat.mod_eq_of_lt h]

/-- A result of at most 64 bits keeps its value. -/
theorem toNat_zext {n : Nat} (v : BitVec n) (h : n ≤ 64) : (zext v).toNat = v.toNat := by
  rw [zext, BitVec.toNat_setWidth, Nat.mod_eq_of_lt (Nat.lt_of_lt_of_le v.isLt (Nat.pow_le_pow_right (by decide) h))]

theorem toNat_reg64 {n : Nat} (h : n < 2 ^ 64) : (reg64 n).toNat = n := by
  rw [reg64, BitVec.toNat_ofNat, Nat.mod_eq_of_lt h]

theorem allFit_iff {w : Nat} {vs : List Word} : allFit w vs = true ↔ ∀ v ∈ vs, Fits v w := by simp [allFit]

theorem allBelow_iff {n : Nat} {vs : List Word} : allBelow n vs = true ↔ ∀ v ∈ vs, v.toNat < n := by simp [allBelow]

/-- A read of an entry changes nothing but the index of the next free value. -/
theorem readEntry_snd (i : Nat) (s : State) : ∃ k, (readEntry i s).2 = { s with freeCount := k } := by
  unfold readEntry
  split
  · exact ⟨s.freeCount, rfl⟩
  · exact ⟨_, rfl⟩

theorem readEntry_written {i : Nat} {s : State} {v : Word} (h : s.mem.readWord (msgOffset i) = some v) :
    readEntry i s = (v, s) := by
  unfold readEntry
  rw [h]

theorem readEntry_unwritten {i : Nat} {s : State} (h : s.mem.readWord (msgOffset i) = none) : readEntry i s = freshWord s := by
  unfold readEntry
  rw [h]

/-- Reads of entries change nothing but the index of the next free value. -/
theorem readEntries_snd (count start : Nat) (s : State) : ∃ k, (readEntries count start s).2 = { s with freeCount := k } := by
  induction count generalizing start s with
  | zero => exact ⟨s.freeCount, rfl⟩
  | succ count ih =>
    obtain ⟨k, hk⟩ := ih (start + 1) (readEntry start s).2
    obtain ⟨k', hk'⟩ := readEntry_snd start s
    exact ⟨k, by rw [readEntries, hk, hk']⟩

theorem readEntries_length (count start : Nat) (s : State) : (readEntries count start s).1.length = count := by
  induction count generalizing start s with
  | zero => rfl
  | succ count ih => rw [readEntries, List.length_cons, ih]

/-- Entries that have been written read as what was written, and nothing changes. -/
theorem readEntries_written {start : Nat} {s : State} (vs : List Word)
    (h : ∀ i (hi : i < vs.length), s.mem.readWord (msgOffset (start + i)) = some vs[i]) :
    readEntries vs.length start s = (vs, s) := by
  induction vs generalizing start with
  | nil => rfl
  | cons v rest ih =>
    have h0 : readEntry start s = (v, s) := readEntry_written (h 0 (by simp))
    have hr : readEntries rest.length (start + 1) s = (rest, s) := ih fun i hi => by
      have := h (i + 1) (by simpa using hi)
      simpa [show start + 1 + i = start + (i + 1) by omega] using this
    rw [List.length_cons, readEntries, h0, hr]

/-- What the message loops can do: CONTRACT, RANGE (only with RANGE_CHECK), or every entry replaced; besides that only the index of
the next free value changes. -/
theorem transformEntries_cases (x n len : Nat) (s : State) :
    (∃ k, transformEntries x n len s = .next (errB { s with freeCount := k } .contract)) ∨
    (s.cfg.rangeCheck = true ∧ ∃ k, transformEntries x n len s = .next (errB { s with freeCount := k } .range)) ∨
    ∃ k, ∃ vs : List Word, vs.length = len ∧ transformEntries x n len s =
      .next (okB { s with freeCount := k, mem := s.mem.writeEntries 0 (vs.map fun v => reg64 (modexp v.toNat x n)) } s.unitB) := by
  obtain ⟨k1, h1⟩ := readEntries_snd len 0 s
  have h2 : ∃ k, (if s.cfg.rangeCheck then readEntries len 0 (readEntries len 0 s).2 else ([], (readEntries len 0 s).2)).2 =
      { s with freeCount := k } := by
    split
    · obtain ⟨k, hk⟩ := readEntries_snd len 0 (readEntries len 0 s).2
      exact ⟨k, by rw [hk, h1]⟩
    · exact ⟨k1, h1⟩
  obtain ⟨k2, h2⟩ := h2
  obtain ⟨k3, h3⟩ := readEntries_snd len 0 { s with freeCount := k2 }
  unfold transformEntries
  rcases require_cases (allFit s.cfg.pkWidth (readEntries len 0 s).1) .b .contract (readEntries len 0 s).2
    _ with ⟨_, h⟩ | ⟨_, h⟩
  · refine .inr ?_
    rw [h]
    rcases require_cases
      (allBelow n (if s.cfg.rangeCheck then readEntries len 0 (readEntries len 0 s).2 else ([], (readEntries len 0 s).2)).1)
      .b .range (if s.cfg.rangeCheck then readEntries len 0 (readEntries len 0 s).2 else ([], (readEntries len 0 s).2)).2
      _ with ⟨_, h⟩ | ⟨hne, h⟩
    · refine .inr ⟨k3, (readEntries len 0 { s with freeCount := k2 }).1, readEntries_length _ _ _, ?_⟩
      rw [h, h2, completeB_eq, h3]
      rfl
    · refine .inl ⟨?_, k2, by rw [h, h2, raiseError_b]⟩
      by_contra hc
      exact hne (by simp [hc, allBelow])
  · exact .inl ⟨k1, by rw [h, h1, raiseError_b]⟩

/-- ENCMSG and DECMSG either raise an error or replace the entries; nothing else but the index of the next free value changes. -/
theorem transformMessage_cases (x : Word) (s : State) :
    (∃ k c, (c = .contract ∨ c = .range ∧ s.cfg.rangeCheck = true) ∧
      transformMessage x s = .next (errB { s with freeCount := k } c)) ∨
    ∃ k, ∃ vs : List Word, vs.length = s.unitB.msgLen.toNat ∧ s.unitB.msgLen.toNat ≤ s.cfg.msgDepth ∧ transformMessage x s =
      .next (okB { s with freeCount := k,
                          mem := s.mem.writeEntries 0 (vs.map fun v => reg64 (modexp v.toNat x.toNat s.unitB.n.toNat)) } s.unitB) := by
  unfold transformMessage
  rcases require_cases (Fits x s.cfg.pkWidth) .b .contract s _ with ⟨_, h⟩ | ⟨_, h⟩
  rotate_left
  · exact .inl ⟨s.freeCount, .contract, .inl rfl, by rw [h, raiseError_b]⟩
  rw [h]
  rcases require_cases (Fits s.unitB.n s.cfg.pkWidth ∧ s.unitB.n.toNat ≠ 0) .b .contract s _ with ⟨_, h⟩ | ⟨_, h⟩
  rotate_left
  · exact .inl ⟨s.freeCount, .contract, .inl rfl, by rw [h, raiseError_b]⟩
  rw [h]
  rcases require_cases (s.unitB.msgLen.toNat ≤ s.cfg.msgDepth) .b .contract s _ with ⟨hd, h⟩ | ⟨_, h⟩
  rotate_left
  · exact .inl ⟨s.freeCount, .contract, .inl rfl, by rw [h, raiseError_b]⟩
  rw [h]
  rcases transformEntries_cases x.toNat s.unitB.n.toNat s.unitB.msgLen.toNat s with ⟨k, h⟩ | ⟨hr, k, h⟩ | ⟨k, vs, hl, h⟩
  · exact .inl ⟨k, .contract, .inl rfl, h⟩
  · exact .inl ⟨k, .range, .inr ⟨rfl, hr⟩, h⟩
  · exact .inr ⟨k, vs, hl, hd, h⟩

end Sys2Proof.Machine
end

