-- ==== Sys2Proof/Laws/Cipher.lean ====
section
/-! SUPPORT. The functions of Unit A: elements of a permuted sequence, halves, and values between 64-bit registers and narrow ones. -/

namespace Sys2Proof.Machine

open Sys2Proof

/-- Element i of the result is element T[i] of the input (40_block_cipher R120). -/
theorem permute_getMsb {n m : Nat} (t : PermTable n m) (v : BitVec n) (i : Fin m) :
    (permute t v).getMsb i = v.getMsb (t.get i) := by
  simp [permute]

/-- A value put in a register and read back. -/
theorem low_zext {n : Nat} (v : BitVec n) (h : n ≤ 64) : low n (zext v) = v := by
  apply BitVec.eq_of_toNat_eq
  rw [low, BitVec.toNat_setWidth, toNat_zext _ h, Nat.mod_eq_of_lt v.isLt]

/-- A register that fits n bits is its low n bits. -/
theorem zext_low {n : Nat} (v : Word) (h : Fits v n) (hn : n ≤ 64) : zext (low n v) = v := by
  apply BitVec.eq_of_toNat_eq
  rw [toNat_zext _ hn, toNat_low h]

/-- A narrow value as a register. -/
theorem zext_eq_ofNat {n : Nat} (v : BitVec n) (h : n ≤ 64) : zext v = BitVec.ofNat 64 v.toNat := by
  apply BitVec.eq_of_toNat_eq
  rw [toNat_zext _ h, BitVec.toNat_ofNat, Nat.mod_eq_of_lt]
  exact v.isLt.trans_le (Nat.pow_le_pow_right (by decide) h)

theorem fits_zext {n k : Nat} (v : BitVec n) (h : n ≤ k) (hn : n ≤ 64) : Fits (zext v) k := by
  unfold Fits
  rw [toNat_zext _ hn]
  exact v.isLt.trans_le (Nat.pow_le_pow_right (by decide) h)

theorem leftHalf_toNat (v : BitVec 8) : (leftHalf v).toNat = v.toNat / 16 := by
  simp [leftHalf, BitVec.extractLsb'_toNat, Nat.shiftRight_eq_div_pow]
  have := v.isLt
  omega

theorem rightHalf_toNat (v : BitVec 8) : (rightHalf v).toNat = v.toNat % 16 := by
  simp [rightHalf, BitVec.extractLsb'_toNat]

/-- The value of a concatenation (00_scope R13). -/
theorem append_toNat {n m : Nat} (a : BitVec n) (b : BitVec m) : (a ++ b).toNat = 2 ^ m * a.toNat + b.toNat := by
  rw [BitVec.toNat_append, Nat.shiftLeft_eq, Nat.mul_comm]
  exact (Nat.two_pow_add_eq_or_of_lt b.isLt a.toNat).symm

@[simp] theorem leftHalf_append (a b : BitVec 4) : leftHalf (a ++ b) = a := by
  apply BitVec.eq_of_toNat_eq
  rw [leftHalf_toNat, append_toNat]
  have := b.isLt
  omega

@[simp] theorem rightHalf_append (a b : BitVec 4) : rightHalf (a ++ b) = b := by
  apply BitVec.eq_of_toNat_eq
  rw [rightHalf_toNat, append_toNat]
  have := b.isLt
  omega

@[simp] theorem leftHalf_append_rightHalf (v : BitVec 8) : leftHalf v ++ rightHalf v = v := by
  apply BitVec.eq_of_toNat_eq
  rw [append_toNat, leftHalf_toNat, rightHalf_toNat]
  omega

end Sys2Proof.Machine
end

