-- ==== Sys2Proof/Laws/Exec.lean ====
section
/-! SUPPORT. What a step and a command can do, said once: the step of a listed turn, and every outcome a command of a unit can have. -/

namespace Sys2Proof.Machine

open Sys2Proof

/-- The step of a listed turn. -/
theorem step_of_sched {s : State} {t : Turn} {rest : List Turn} (h : s.sched = t :: rest) :
    step s = takeTurn t { s with sched := rest } := by
  unfold step nextTurn
  rw [h]

/-- A program that a CHECK has stopped does nothing in the host's turn. -/
theorem hostTurn_stopped {s : State} (h : s.hostFailed = true) : hostTurn s = s := by
  simp only [hostTurn, h, if_true]

/-- A program that no CHECK has stopped does its next operation in the host's turn. -/
theorem hostTurn_running {s : State} (h : s.hostFailed = false) : hostTurn s = hostOperation s := by
  simp [hostTurn, h]

/-- A host's turn does nothing, or one transaction of the program, or one read of a STATUS. -/
theorem hostTurn_cases (s : State) :
    hostTurn s = s ∨ (∃ t ops, hostTurn s = transact t { s with host := ops }) ∨
      ∃ u ops failed, hostTurn s = { pollStatus u s with host := ops, hostFailed := failed } := by
  rcases Bool.eq_false_or_eq_true s.hostFailed with h | h
  · exact .inl (hostTurn_stopped h)
  · rw [hostTurn_running h]
    unfold hostOperation
    split
    · exact .inl rfl
    · exact .inr (.inl ⟨_, _, rfl⟩)
    · split <;> exact .inr (.inr ⟨_, _, _, rfl⟩)
    · split <;> exact .inr (.inr ⟨_, _, _, rfl⟩)

/-- A Unit A command writes result registers only, or raises CONTRACT (40_block_cipher R131). -/
theorem exec_unitA_cases (i : Instr) (s : State) (h : i.unit = .a) :
    (∃ res k1 k2, exec i s = .next (okA s { s.unitA with res := res, k1 := k1, k2 := k2 })) ∨
      exec i s = .next (errA s .contract) := by
  have src (n : Nat) {m : Nat} (f : BitVec n → BitVec m) :
      (∃ res k1 k2, srcToRes n f s = .next (okA s { s.unitA with res := res, k1 := k1, k2 := k2 })) ∨
        srcToRes n f s = .next (errA s .contract) := by
    rw [srcToRes_eq]
    split
    · exact .inl ⟨_, _, _, rfl⟩
    · exact .inr rfl
  have sub {m : Nat} (f : BitVec 8 → BitVec 8 → BitVec m) :
      (∃ res k1 k2, srcSubkeyToRes f s = .next (okA s { s.unitA with res := res, k1 := k1, k2 := k2 })) ∨
        srcSubkeyToRes f s = .next (errA s .contract) := by
    rw [srcSubkeyToRes_eq]
    split
    · exact .inl ⟨_, _, _, rfl⟩
    · exact .inr rfl
  have key (f : BitVec 8 → BitVec 10 → BitVec 8) :
      (∃ res k1 k2, srcKeyToRes f s = .next (okA s { s.unitA with res := res, k1 := k1, k2 := k2 })) ∨
        srcKeyToRes f s = .next (errA s .contract) := by
    rw [srcKeyToRes_eq]
    split
    · exact .inl ⟨_, _, _, rfl⟩
    · exact .inr rfl
  cases i with
  | permP10 => exact src 10 (permute s.cfg.tblP10)
  | permP8 => exact src 10 (permute s.cfg.tblP8)
  | permIP => exact src 8 (permute s.cfg.tblIP)
  | permFP => exact src 8 (permute s.cfg.tblFP)
  | permEP => exact src 4 (permute s.cfg.tblEP)
  | permP4 => exact src 4 (permute s.cfg.tblP4)
  | rotl5_0 => exact src 10 (rotl5x2 · 0)
  | rotl5_1 => exact src 10 (rotl5x2 · 1)
  | rotl5_2 => exact src 10 (rotl5x2 · 2)
  | rotl5_3 => exact src 10 (rotl5x2 · 3)
  | rotl5_4 => exact src 10 (rotl5x2 · 4)
  | sboxS0 => exact src 4 (sbox0 s.cfg)
  | sboxS1 => exact src 4 (sbox1 s.cfg)
  | swap => exact src 8 swapHalves
  | feistel => exact sub (roundF s.cfg)
  | fk => exact sub (fK s.cfg)
  | subkeys =>
    rcases require_cases (Fits s.unitA.key 10) .a .contract s _ with ⟨_, e⟩ | ⟨_, e⟩
    · exact .inl ⟨_, _, _, e⟩
    · exact .inr e
  | encrypt => exact key (encryptBlock s.cfg)
  | decrypt => exact key (decryptBlock s.cfg)
  | isprime | gencand | genprime | gcd | egcd | modinv | modexp | keygen | encmsg | decmsg => cases h

/-- What a Unit B command can make of a state. -/
inductive UnitBOutcome (i : Instr) (s : State) : State → Prop
  /-- An error that changes nothing but STATUS and the phase. -/
  | failed (c : ErrCode) (h : c = .contract ∨ (c = .noInverse ∧ i = .modinv)) : UnitBOutcome i s (errB s c)
  /-- An error of a search, which writes B_ATTEMPTS. -/
  | searchFailed (c : ErrCode) (n : Nat) (h : c = .contract ∨ c = .exhausted) (hi : i = .genprime ∨ i = .keygen) :
      UnitBOutcome i s (errB (s.mapB (setAttempts n)) c)
  /-- An error of a message command, which may have used free values. -/
  | messageFailed (c : ErrCode) (k : Nat) (h : c = .contract ∨ c = .range ∧ s.cfg.rangeCheck = true)
      (hi : i = .encmsg ∨ i = .decmsg) : UnitBOutcome i s (errB { s with freeCount := k } c)
  /-- A failed attempt of a search. -/
  | busy (search : Search) (hi : i = .genprime ∨ i = .keygen) :
      UnitBOutcome i s { s with unitB := { s.unitB with phase := .busy s.unitB.latched search } }
  /-- An integer result in B_RES. -/
  | result (n : Nat) (hi : i ≠ .keygen ∧ i ≠ .encmsg ∧ i ≠ .decmsg ∧ i ≠ .genprime ∧ i ≠ .egcd) :
      UnitBOutcome i s (okB s (resultB n s.unitB))
  /-- The three results of EGCD. -/
  | bezout (r : Nat × Int × Int) (hi : i = .egcd) : UnitBOutcome i s (okB s (writeEgcd r s.unitB))
  /-- The prime GENPRIME found. -/
  | prime (n c : Nat) (hi : i = .genprime) : UnitBOutcome i s (okB s (setAttempts n (resultB c s.unitB)))
  /-- The key pair KEYGEN found. -/
  | pair (p q n : Nat) (k : Nat × Nat × Nat × Nat) (hi : i = .keygen) :
      UnitBOutcome i s (okB s (writeKeyPair p q k (setAttempts n s.unitB)))
  /-- The message entries replaced. -/
  | message (k : Nat) (vs : List Word) (x : Nat) (hi : i = .encmsg ∨ i = .decmsg) (hl : vs.length = s.unitB.msgLen.toNat)
      (hd : s.unitB.msgLen.toNat ≤ s.cfg.msgDepth) :
      UnitBOutcome i s (okB { s with
        freeCount := k,
        mem := s.mem.writeEntries 0 (vs.map fun v => reg64 (modexp v.toNat x s.unitB.n.toNat)) } s.unitB)

theorem require_outcome {p : Prop} [Decidable p] {i : Instr} {c : ErrCode} {s s' : State} {go : Result}
    (hno : UnitBOutcome i s (errB s' c)) (hgo : ∃ t, go = .next t ∧ UnitBOutcome i s t) :
    ∃ t, require p .b c s' go = .next t ∧ UnitBOutcome i s t := by
  rcases require_cases p .b c s' go with ⟨_, e⟩ | ⟨_, e⟩
  · rw [e]; exact hgo
  · rw [e]; exact ⟨_, rfl, hno⟩

theorem genprimeAttempt_outcome (before : Nat) (s : State) :
    ∃ t, genprimeAttempt before s = .next t ∧ UnitBOutcome .genprime s t := by
  unfold genprimeAttempt
  split
  · exact ⟨_, rfl, .prime _ _ rfl⟩
  · split
    · exact ⟨_, rfl, .searchFailed .exhausted _ (.inr rfl) (.inl rfl)⟩
    · exact ⟨_, stayBusy_eq _ _, .busy _ (.inl rfl)⟩

theorem keygenAttemptP_outcome (before total : Nat) (s : State) :
    ∃ t, keygenAttemptP before total s = .next t ∧ UnitBOutcome .keygen s t := by
  unfold keygenAttemptP
  split
  · exact ⟨_, stayBusy_eq _ _, .busy _ (.inr rfl)⟩
  · split
    · exact ⟨_, rfl, .searchFailed .exhausted _ (.inr rfl) (.inr rfl)⟩
    · exact ⟨_, stayBusy_eq _ _, .busy _ (.inr rfl)⟩

theorem keygenAttemptQ_outcome (p before total : Nat) (s : State) :
    ∃ t, keygenAttemptQ p before total s = .next t ∧ UnitBOutcome .keygen s t := by
  unfold keygenAttemptQ
  split
  · unfold finishKeygen
    split
    · exact ⟨_, rfl, .pair _ _ _ _ rfl⟩
    · exact ⟨_, rfl, .searchFailed .exhausted _ (.inr rfl) (.inr rfl)⟩
  · split
    · exact ⟨_, rfl, .searchFailed .exhausted _ (.inr rfl) (.inr rfl)⟩
    · exact ⟨_, stayBusy_eq _ _, .busy _ (.inr rfl)⟩

theorem transformMessage_outcome {i : Instr} (hi : i = .encmsg ∨ i = .decmsg) (x : Word) (s : State) :
    ∃ t, transformMessage x s = .next t ∧ UnitBOutcome i s t := by
  rcases transformMessage_cases x s with ⟨k, c, hc, e⟩ | ⟨k, vs, hl, hd, e⟩
  · exact ⟨_, e, .messageFailed c k hc hi⟩
  · exact ⟨_, e, .message k vs _ hi hl hd⟩

/-- Every Unit B command answers a next state, one of the outcomes above. -/
theorem exec_unitB_outcome (i : Instr) (s : State) (h : i.unit = .b) : ∃ t, exec i s = .next t ∧ UnitBOutcome i s t := by
  have contract (i : Instr) : UnitBOutcome i s (errB s .contract) := .failed _ (.inl rfl)
  cases i with
  | isprime => exact require_outcome (contract _) ⟨_, rfl, .result _ (by decide)⟩
  | gencand => exact require_outcome (contract _) ⟨_, rfl, .result _ (by decide)⟩
  | genprime =>
    show ∃ t, execGenprime s = .next t ∧ _
    unfold execGenprime
    split
    · exact genprimeAttempt_outcome _ _
    · exact require_outcome (.searchFailed _ 0 (.inl rfl) (.inl rfl)) (genprimeAttempt_outcome _ _)
  | gcd => exact require_outcome (contract _) (require_outcome (contract _) ⟨_, rfl, .result _ (by decide)⟩)
  | egcd => exact require_outcome (contract _) (require_outcome (contract _) ⟨_, rfl, .bezout _ rfl⟩)
  | modinv =>
    exact require_outcome (contract _) (require_outcome (contract _) (require_outcome (contract _)
      (require_outcome (.failed _ (.inr ⟨rfl, rfl⟩)) ⟨_, rfl, .result _ (by decide)⟩)))
  | modexp =>
    exact require_outcome (contract _) (require_outcome (contract _) (require_outcome (contract _)
      (require_outcome (contract _) ⟨_, rfl, .result _ (by decide)⟩)))
  | keygen =>
    show ∃ t, execKeygen s = .next t ∧ _
    unfold execKeygen
    split
    · exact keygenAttemptP_outcome _ _ _
    · exact keygenAttemptQ_outcome _ _ _ _
    · exact require_outcome (.searchFailed _ 0 (.inl rfl) (.inr rfl)) (keygenAttemptP_outcome _ _ _)
  | encmsg => exact transformMessage_outcome (.inl rfl) s.unitB.e s
  | decmsg => exact transformMessage_outcome (.inr rfl) s.unitB.d s
  | permP10 | permP8 | permIP | permFP | permEP | permP4 | rotl5_0 | rotl5_1 | rotl5_2 | rotl5_3 | rotl5_4 | sboxS0 | sboxS1
  | swap | feistel | fk | subkeys | encrypt | decrypt => cases h

end Sys2Proof.Machine
end

