-- ==== Sys2Proof/Laws/Number.lean ====
section
/-! SUPPORT. What each integer function of Unit B gives (41_pk_primes_keys, 42_pk_modexp_msg). -/

namespace Sys2Proof.Machine

open Sys2Proof

theorem isqrtBits_bounds (n k r : Nat) (hr : r * r ≤ n) (hn : n < (r + 2 ^ k) * (r + 2 ^ k)) :
    isqrtBits n k r * isqrtBits n k r ≤ n ∧ n < (isqrtBits n k r + 1) * (isqrtBits n k r + 1) := by
  induction k generalizing r with
  | zero => exact ⟨hr, by simpa [isqrtBits] using hn⟩
  | succ k ih =>
    rw [isqrtBits]
    split
    next h => exact ih _ h (by rw [pow_succ] at hn; convert hn using 2 <;> ring)
    next h => exact ih _ hr (by omega)

/-- isqrt is the integer square root (00_scope R16). -/
theorem isqrt_eq_sqrt (n : Nat) : isqrt n = Nat.sqrt n := by
  have hn : n < (0 + 2 ^ (n.log2 / 2 + 1)) * (0 + 2 ^ (n.log2 / 2 + 1)) := by
    refine lt_of_lt_of_le Nat.lt_log2_self ?_
    rw [zero_add, ← pow_add]
    exact Nat.pow_le_pow_right (by decide) (by omega)
  exact Nat.eq_sqrt.mpr (isqrtBits_bounds n _ 0 (by simp) hn)

/-- The candidate of a draw has the bits of R185. -/
theorem candidate_candidateOf (l : Nat) (e : Word) (h1 : 1 ≤ l) (h64 : l ≤ 64) :
    CandidateOf l e (candidate l (e.toNat % 2 ^ l)) := by
  refine ⟨Nat.or_lt_two_pow (Nat.or_lt_two_pow (Nat.mod_lt _ (by positivity)) ?_) (Nat.one_lt_two_pow (by omega)), ?_, ?_, ?_⟩
  · exact Nat.pow_lt_pow_right (by decide) (by omega)
  · simp [candidate]
  · simp [candidate, Nat.testBit_or]
  · intro k hk hk'
    have h0 : Nat.testBit 1 k = false := by rw [← Bool.not_eq_true, Nat.testBit_one_eq_true_iff_self_eq_zero]; omega
    have ht : (decide (l - 1 = k)) = false := by simp; omega
    simp [candidate, Nat.testBit_or, Nat.testBit_two_pow, Nat.testBit_mod_two_pow, h0, ht, show k < l by omega, BitVec.getLsbD]

/-- A draw has one candidate. -/
theorem candidateOf_unique {l : Nat} {e : Word} {c c' : Nat} (h : CandidateOf l e c) (h' : CandidateOf l e c') : c = c' := by
  obtain ⟨hlt, hbot, htop, hmid⟩ := h
  obtain ⟨hlt', hbot', htop', hmid'⟩ := h'
  refine Nat.eq_of_testBit_eq fun k => ?_
  by_cases h0 : k = 0
  · rw [h0, hbot, hbot']
  by_cases h1 : k = l - 1
  · rw [h1, htop, htop']
  by_cases h2 : k < l - 1
  · rw [hmid k (by omega) h2, hmid' k (by omega) h2]
  · have hk : 2 ^ l ≤ 2 ^ k := Nat.pow_le_pow_right (by decide) (by omega)
    rw [Nat.testBit_lt_two_pow (hlt.trans_le hk), Nat.testBit_lt_two_pow (hlt'.trans_le hk)]

/-- A candidate has exactly l bits and is odd. -/
theorem candidateOf_bounds {l : Nat} {e : Word} {c : Nat} (h : CandidateOf l e c) : 2 ^ (l - 1) ≤ c ∧ c < 2 ^ l ∧ c % 2 = 1 := by
  refine ⟨Nat.ge_two_pow_of_testBit h.2.2.1, h.1, ?_⟩
  have := h.2.1
  rw [Nat.testBit_zero] at this
  simpa using this

theorem modexpLoop_eq (m k b x acc : Nat) (hx : x < 2 ^ k) (hacc : acc % m = acc) : modexpLoop m k b x acc = acc * b ^ x % m := by
  induction k generalizing b x acc with
  | zero =>
    obtain rfl : x = 0 := by simpa using hx
    simp [modexpLoop, hacc]
  | succ k ih =>
    rw [modexpLoop]
    split
    next h => subst h; simp [hacc]
    next h =>
      rw [ih _ _ _ (by omega) (by split; simp; exact hacc)]
      have hx2 : x = 2 * (x / 2) + x % 2 := by omega
      conv_rhs => rw [hx2, pow_add, pow_mul, pow_two]
      rw [Nat.mul_mod, Nat.pow_mod]
      split
      next h => rw [h, pow_one, Nat.mod_mod, Nat.mod_mod, ← Nat.pow_mod, ← Nat.mul_mod]; congr 1; ring
      next h => rw [show x % 2 = 0 by omega, pow_zero, Nat.mod_mod, ← Nat.pow_mod, ← Nat.mul_mod]; congr 1; ring

/-- modexp is the exact power (R240). -/
theorem modexp_eq (b x m : Nat) : modexp b x m = b ^ x % m := by
  rw [modexp, modexpLoop_eq _ _ _ _ _ Nat.lt_two_pow_self (Nat.mod_mod _ _), Nat.mul_mod, Nat.mod_mod, ← Nat.mul_mod, one_mul]

/-- The loop of R192 ends at once when the remainder is 0. -/
theorem egcdLoop_zero (k r0 : Nat) (s0 s1 t0 t1 : Int) : egcdLoop k r0 0 s0 s1 t0 t1 = (r0, s0, t0) := by
  cases k <;> simp [egcdLoop]

/-- The loop of R192 keeps a*s0 + b*t0 = r0, a*s1 + b*t1 = r1 and the gcd. -/
theorem egcdLoop_spec (a b : Nat) (k r0 r1 : Nat) (s0 s1 t0 t1 : Int) (hk : r1 ≤ k) (h0 : a * s0 + b * t0 = r0)
    (h1 : a * s1 + b * t1 = r1) (hg : Nat.gcd r0 r1 = Nat.gcd a b) :
    (egcdLoop k r0 r1 s0 s1 t0 t1).1 = Nat.gcd a b ∧
      (a : Int) * (egcdLoop k r0 r1 s0 s1 t0 t1).2.1 + b * (egcdLoop k r0 r1 s0 s1 t0 t1).2.2 = Nat.gcd a b := by
  induction k generalizing r0 r1 s0 s1 t0 t1 with
  | zero =>
    obtain rfl : r1 = 0 := by omega
    rw [Nat.gcd_zero_right] at hg
    exact hg ▸ ⟨rfl, h0⟩
  | succ k ih =>
    rw [egcdLoop]
    split
    next hz =>
      subst hz
      rw [Nat.gcd_zero_right] at hg
      exact hg ▸ ⟨rfl, h0⟩
    next hz =>
      have hlt := Nat.mod_lt r0 (Nat.pos_of_ne_zero hz)
      have hmod : ((r0 % r1 : Nat) : Int) = r0 - (r0 / r1 : Nat) * r1 := by
        push_cast
        have := Int.emod_add_mul_ediv (r0 : Int) r1
        linarith
      refine ih _ _ _ _ _ _ (by omega) h1 ?_ ?_
      · rw [hmod, ← h0, ← h1]; ring
      · rw [← hg, Nat.gcd_comm r0 r1, Nat.gcd_rec r1 r0, Nat.gcd_comm]

/-- egcd gives the gcd and Bézout coefficients (R192). -/
theorem egcd_spec (a b : Nat) :
    (egcd a b).1 = Nat.gcd a b ∧ (a : Int) * (egcd a b).2.1 + b * (egcd a b).2.2 = Nat.gcd a b :=
  egcdLoop_spec a b b a b 1 0 0 1 le_rfl (by simp) (by simp) rfl

/-- modinv is the inverse in [0, m) (R194). -/
theorem modinv_spec (a m : Nat) (hm : 2 ≤ m) (hg : Nat.gcd a m = 1) : modinv a m < m ∧ a * modinv a m % m = 1 := by
  have hm0 : (0 : Int) < m := by omega
  have he := (egcd_spec a m).2
  rw [hg] at he
  unfold modinv
  generalize (egcd a m).2.1 = x at *
  generalize (egcd a m).2.2 = y at *
  have h1 := Int.emod_nonneg x hm0.ne'
  have h2 := Int.emod_lt_of_pos x hm0
  refine ⟨by omega, ?_⟩
  zify
  rw [Int.toNat_of_nonneg h1, Int.mul_emod, Int.emod_emod, ← Int.mul_emod]
  have hx : (a : Int) * x = 1 + m * (-y) := by push_cast at he; linarith
  rw [hx, Int.add_mul_emod_self_left]
  exact Int.emod_eq_of_lt (by decide) (by omega)

/-- The exponent search finds the least coprime number of e's parity from e on, when there is one below the limit (R196). -/
theorem findExponent_spec (phi limit : Nat) (k e : Nat)
    (h : ∃ e', e' % 2 = e % 2 ∧ e ≤ e' ∧ e' < limit ∧ e' < e + 2 * k ∧ Nat.Coprime e' phi) :
    ∃ e', findExponent phi limit k e = some e' ∧ e' % 2 = e % 2 ∧ e ≤ e' ∧ e' < limit ∧ Nat.Coprime e' phi ∧
      ∀ e'', e'' % 2 = e % 2 → e ≤ e'' → Nat.Coprime e'' phi → e' ≤ e'' := by
  induction k generalizing e with
  | zero => obtain ⟨e', _, _, _, _, _⟩ := h; omega
  | succ k ih =>
    obtain ⟨e', hpar, hge, hlim, hfuel, hcop⟩ := h
    rw [findExponent]
    by_cases hc : Nat.gcd e phi = 1
    · rw [if_pos hc]
      exact ⟨e, rfl, rfl, le_rfl, by omega, hc, fun _ _ h _ => h⟩
    · have hne : e' ≠ e := by rintro rfl; exact hc hcop
      rw [if_neg hc, if_neg (by omega)]
      obtain ⟨w, hw, wpar, wge, wlim, wcop, wleast⟩ := ih (e + 2) ⟨e', by omega, by omega, hlim, by omega, hcop⟩
      refine ⟨w, hw, by omega, by omega, wlim, wcop, fun x xpar xge xcop => wleast x (by omega) ?_ xcop⟩
      have : x ≠ e := by rintro rfl; exact hc xcop
      omega

end Sys2Proof.Machine
end

