-- ==== Sys2Proof/Laws/PerInstr.lean ====
section
/-! SUPPORT. Statements for all commands, one lemma a constructor: a command's word decodes to it in its own unit (30_encoding R91 to
R98). -/

namespace Sys2Proof.Laws.RoundTrip

open Sys2Proof

/-- The word of a command decodes to it in the unit whose table lists it. -/
def Statement (i : Instr) : Prop := decode i.unit (encode i) = .ok i

theorem permP10 : Statement .permP10 := rfl

theorem permP8 : Statement .permP8 := rfl

theorem permIP : Statement .permIP := rfl

theorem permFP : Statement .permFP := rfl

theorem permEP : Statement .permEP := rfl

theorem permP4 : Statement .permP4 := rfl

theorem rotl5_0 : Statement .rotl5_0 := rfl

theorem rotl5_1 : Statement .rotl5_1 := rfl

theorem rotl5_2 : Statement .rotl5_2 := rfl

theorem rotl5_3 : Statement .rotl5_3 := rfl

theorem rotl5_4 : Statement .rotl5_4 := rfl

theorem sboxS0 : Statement .sboxS0 := rfl

theorem sboxS1 : Statement .sboxS1 := rfl

theorem swap : Statement .swap := rfl

theorem feistel : Statement .feistel := rfl

theorem fk : Statement .fk := rfl

theorem subkeys : Statement .subkeys := rfl

theorem encrypt : Statement .encrypt := rfl

theorem decrypt : Statement .decrypt := rfl

theorem isprime : Statement .isprime := rfl

theorem gencand : Statement .gencand := rfl

theorem genprime : Statement .genprime := rfl

theorem gcd : Statement .gcd := rfl

theorem egcd : Statement .egcd := rfl

theorem modinv : Statement .modinv := rfl

theorem modexp : Statement .modexp := rfl

theorem keygen : Statement .keygen := rfl

theorem encmsg : Statement .encmsg := rfl

theorem decmsg : Statement .decmsg := rfl

end Sys2Proof.Laws.RoundTrip
end

