-- ==== Sys2Proof/Laws/Port.lean ====
section
/-! SUPPORT. The host port: what an offset names, and a transaction as one equation. -/

namespace Sys2Proof.Machine

open Sys2Proof

theorem offset_lt (r : Reg) : r.offset < 4096 := by cases r <;> decide

theorem msgOffset_lt {c : Config} {i : Nat} (h : i < c.msgDepth) (hd : c.msgDepth ≤ 256) : msgOffset i < 4096 := by
  unfold msgOffset
  omega

theorem windowOffset_base (c : Config) (off : Nat) (h : off < 4096) : windowOffset c (c.engineBase + off) = some off := by
  unfold windowOffset
  rw [if_pos (by omega), Nat.add_sub_cancel_left]

theorem targetAt_reg (c : Config) (r : Reg) : targetAt c r.offset = some (.reg r) := by
  unfold targetAt
  cases r <;> rfl

theorem targetAt_msg (c : Config) (i : Nat) (h : i < c.msgDepth) : targetAt c (msgOffset i) = some (.msg i) := by
  have hr : allRegs.find? (fun r => r.offset == msgOffset i) = none := by
    rw [List.find?_eq_none]
    intro r _
    have : r.offset ≠ msgOffset i := by cases r <;> simp [Reg.offset, msgOffset] <;> omega
    simpa using this
  have hi : (msgOffset i - msgOffset 0) / 8 = i := by simp [msgOffset]
  unfold targetAt
  rw [hr, hi]
  exact if_pos ⟨by unfold msgOffset; omega, by unfold msgOffset; omega, h⟩

/-- A misaligned or unmapped offset names nothing (10_state R23, 20_memory R63). -/
theorem targetAt_none (c : Config) (off : Nat) (h : off % 8 ≠ 0 ∨ Unmapped c off) : targetAt c off = none := by
  have hr : ∀ r : Reg, r.offset ≠ off := by
    intro r
    rcases h with h | h
    · rintro rfl
      revert h
      cases r <;> decide
    · exact h.1 r
  unfold targetAt
  rw [List.find?_eq_none.mpr (by intro r _; simpa using hr r)]
  refine if_neg ?_
  rintro ⟨hge, halign, hi⟩
  rcases h with h | h
  · exact h halign
  · refine h.2 _ hi ?_
    unfold msgOffset at *
    omega

/-- A 64-bit read of a mapped offset. -/
theorem transact_read (s : State) (off : Nat) (t : Target) (ho : off < 4096) (h : targetAt s.cfg off = some t) :
    transact (.read (s.cfg.engineBase + off) .w64) s = answer (.data (readTarget t s).1) (readTarget t s).2 := by
  simp only [transact, windowOffset_base _ _ ho, hostRead, addressed, h, if_true]

/-- A 64-bit write of a mapped offset. -/
theorem transact_write (s : State) (off : Nat) (t : Target) (v : Word) (ho : off < 4096) (h : targetAt s.cfg off = some t) :
    transact (.write (s.cfg.engineBase + off) .w64 v) s =
      if t.writable then answer .ack (writeTarget t v s) else answer .busError s := by
  simp only [transact, windowOffset_base _ _ ho, hostWrite, addressed, h, if_true]

/-- A read of a target changes nothing but the index of the next free value. -/
theorem readTarget_snd (t : Target) (s : State) : ∃ k, (readTarget t s).2 = { s with freeCount := k } := by
  unfold readTarget
  split
  · split <;> exact ⟨_, rfl⟩
  · split
    · exact ⟨_, rfl⟩
    · exact readEntry_snd _ _

end Sys2Proof.Machine
end

