-- ==== Sys2Proof/Tests/Slice0.lean ====
section
/-! SUPPORT. The model's own tests: words written out from 30_encoding, ill-formed terms, one-step vectors of spec/95_test_vectors.md
(section L2, or worked by hand from the rule named), and a witness for the hypotheses of every statement that has some. -/

namespace Sys2Proof.Tests

open Sys2Proof Sys2Proof.Machine

/-! ### Small states -/

/-- Unit A Busy with a word, its operands loaded, its turn next. -/
def readyA (w key src subkey : Word) : State :=
  { State.reset with
    unitA := { UnitA.reset with cmd := w, key := key, src := src, subkey := subkey, phase := .busy w }
    sched := [.unitA] }

/-- Unit B Busy with a word and a search, its turn next with a draw. -/
def searchB (w : Word) (search : Search) (b : UnitB) (draw : Word) : State :=
  { State.reset with unitB := { b with cmd := w, phase := .busy w search }, entropy := draw, sched := [.unitB draw] }

/-- Unit B about to take a command's first step. -/
def readyB (w : Word) (b : UnitB) (draw : Word) : State := searchB w .fresh b draw

/-- The state with a one-entry message of the value lo + 256*hi in its buffer, and 1 in B_MSGLEN. -/
def withMessage (lo hi : Byte) (s : State) : State :=
  { s with
    mem := [(0x800, lo), (0x801, hi), (0x802, 0), (0x803, 0), (0x804, 0), (0x805, 0), (0x806, 0), (0x807, 0)]
    unitB := { s.unitB with msgLen := 1 } }

/-- The state with another configuration. -/
def withConfig (c : Config) (s : State) : State := { s with cfg := c }

/-- A property of the next state, false where there is none. -/
def nextIs (r : Result) (p : State → Bool) : Bool :=
  match r with
  | .next t => p t
  | .fault _ => false
  | .refused _ => false

/-- A_RES and A_STATUS after a step. -/
def afterA (s : State) : Option (Word × Word) :=
  match step s with
  | .next t => some (t.unitA.res, t.statusWord .a)
  | .fault _ => none
  | .refused _ => none

/-- B_RES and B_STATUS after a step. -/
def afterB (s : State) : Option (Word × Word) :=
  match step s with
  | .next t => some (t.unitB.res, t.statusWord .b)
  | .fault _ => none
  | .refused _ => none

/-! ### Words written out from 30_encoding R90, R92 to R97: RSV, SEL and OPC bit by bit -/

theorem test_decode_permP10 : decode .a (0#53 ++ 0b000#3 ++ 0b00010000#8) = .ok .permP10 := by decide
theorem test_decode_permP8 : decode .a (0#53 ++ 0b001#3 ++ 0b00010000#8) = .ok .permP8 := by decide
theorem test_decode_permIP : decode .a (0#53 ++ 0b010#3 ++ 0b00010000#8) = .ok .permIP := by decide
theorem test_decode_permFP : decode .a (0#53 ++ 0b011#3 ++ 0b00010000#8) = .ok .permFP := by decide
theorem test_decode_permEP : decode .a (0#53 ++ 0b100#3 ++ 0b00010000#8) = .ok .permEP := by decide
theorem test_decode_permP4 : decode .a (0#53 ++ 0b101#3 ++ 0b00010000#8) = .ok .permP4 := by decide
theorem test_decode_rotl5_0 : decode .a (0#53 ++ 0b000#3 ++ 0b00010001#8) = .ok .rotl5_0 := by decide
theorem test_decode_rotl5_1 : decode .a (0#53 ++ 0b001#3 ++ 0b00010001#8) = .ok .rotl5_1 := by decide
theorem test_decode_rotl5_2 : decode .a (0#53 ++ 0b010#3 ++ 0b00010001#8) = .ok .rotl5_2 := by decide
theorem test_decode_rotl5_3 : decode .a (0#53 ++ 0b011#3 ++ 0b00010001#8) = .ok .rotl5_3 := by decide
theorem test_decode_rotl5_4 : decode .a (0#53 ++ 0b100#3 ++ 0b00010001#8) = .ok .rotl5_4 := by decide
theorem test_decode_sboxS0 : decode .a (0#53 ++ 0b000#3 ++ 0b00010010#8) = .ok .sboxS0 := by decide
theorem test_decode_sboxS1 : decode .a (0#53 ++ 0b001#3 ++ 0b00010010#8) = .ok .sboxS1 := by decide
theorem test_decode_swap : decode .a (0#53 ++ 0b000#3 ++ 0b00010011#8) = .ok .swap := by decide
theorem test_decode_feistel : decode .a (0#53 ++ 0b000#3 ++ 0b00010100#8) = .ok .feistel := by decide
theorem test_decode_fk : decode .a (0#53 ++ 0b000#3 ++ 0b00010101#8) = .ok .fk := by decide
theorem test_decode_subkeys : decode .a (0#53 ++ 0b000#3 ++ 0b00010110#8) = .ok .subkeys := by decide
theorem test_decode_encrypt : decode .a (0#53 ++ 0b000#3 ++ 0b00010111#8) = .ok .encrypt := by decide
theorem test_decode_decrypt : decode .a (0#53 ++ 0b000#3 ++ 0b00011000#8) = .ok .decrypt := by decide
theorem test_decode_isprime : decode .b (0#53 ++ 0b000#3 ++ 0b00100000#8) = .ok .isprime := by decide
theorem test_decode_gencand : decode .b (0#53 ++ 0b000#3 ++ 0b00100001#8) = .ok .gencand := by decide
theorem test_decode_genprime : decode .b (0#53 ++ 0b000#3 ++ 0b00100010#8) = .ok .genprime := by decide
theorem test_decode_gcd : decode .b (0#53 ++ 0b000#3 ++ 0b00100011#8) = .ok .gcd := by decide
theorem test_decode_egcd : decode .b (0#53 ++ 0b000#3 ++ 0b00100100#8) = .ok .egcd := by decide
theorem test_decode_modinv : decode .b (0#53 ++ 0b000#3 ++ 0b00100101#8) = .ok .modinv := by decide
theorem test_decode_modexp : decode .b (0#53 ++ 0b000#3 ++ 0b00100110#8) = .ok .modexp := by decide
theorem test_decode_keygen : decode .b (0#53 ++ 0b000#3 ++ 0b00100111#8) = .ok .keygen := by decide
theorem test_decode_encmsg : decode .b (0#53 ++ 0b000#3 ++ 0b00101000#8) = .ok .encmsg := by decide
theorem test_decode_decmsg : decode .b (0#53 ++ 0b000#3 ++ 0b00101001#8) = .ok .decmsg := by decide

/-- 95 L2, Unit A errors: the words that are ILLEGAL in A_CMD, at the edges of each range. -/
theorem test_illegal_in_unitA :
    [0x610, 0x511, 0x212, 0x117, 0x020, 0x000, 0x019, 0x00F, 0x817, 0x8000000000000017].map (decode .a) =
      [.error .selector, .error .selector, .error .selector, .error .selector, .error .opcode, .error .opcode, .error .opcode,
       .error .opcode, .error .reserved, .error .reserved] := by decide

/-- 95 L2, message errors: the words that are ILLEGAL in B_CMD. -/
theorem test_illegal_in_unitB :
    [0x017, 0x02A, 0x01F, 0x128, 0x822].map (decode .b) =
      [.error .opcode, .error .opcode, .error .opcode, .error .selector, .error .reserved] := by decide

/-- R100: a table word is read in the unit whose table lists it. -/
theorem test_decodeTableWord : decodeTableWord 64 0x411 = some .rotl5_4 ∧ decodeTableWord 16 0x029 = some .decmsg ∧
    decodeTableWord 64 0x030 = none := by decide

/-- R103. -/
theorem test_disassemble : disassemble .a 0x211 = "ROTL5 2" ∧ disassemble .b 0x211 = ".illegal 0x211" := by decide

/-! ### Ill-formed terms that the checks refuse (00_scope R5, R6, R7, R11, R17; 30_encoding R92, R93; 10_state R42) -/

theorem test_wf_default : Config.default.WF := by decide
theorem test_wf_smallest : { Config.default with pkWidth := 18, msgDepth := 1, attemptLimit := 2 ^ 64 - 1 }.WF := by decide
theorem test_wf_width_odd : ¬{ Config.default with pkWidth := 63 }.WF := by decide
theorem test_wf_width_small : ¬{ Config.default with pkWidth := 16 }.WF := by decide
theorem test_wf_width_large : ¬{ Config.default with pkWidth := 66 }.WF := by decide
theorem test_wf_depth_zero : ¬{ Config.default with msgDepth := 0 }.WF := by decide
theorem test_wf_depth_large : ¬{ Config.default with msgDepth := 257 }.WF := by decide
theorem test_wf_limit_large : ¬{ Config.default with attemptLimit := 2 ^ 64 }.WF := by decide
theorem test_wf_base : ¬{ Config.default with engineBase := 0x1008 }.WF := by decide
theorem test_wf_ip_bijective : ¬{ Config.default with tblIP := #v[1, 1, 2, 0, 3, 7, 4, 6] }.WF := by decide
theorem test_wf_fp_inverse : ¬{ Config.default with tblFP := #v[0, 3, 2, 4, 6, 1, 7, 5] }.WF := by decide
theorem test_wf_command_unit : Instr.wellFormed .a .keygen = false ∧ Instr.wellFormed .b .keygen = true := by decide
theorem test_wf_line_entry : HostLine.wellFormed Config.default (.wrmsg 256 0) = false ∧
    HostLine.wellFormed Config.default (.rdmsg 255) = true := by decide
theorem test_wf_line_load : HostLine.wellFormed { Config.default with msgDepth := 1 } (.loadmsg [0, 0]) = false := by decide

/-! ### Unit A vectors of 95 L2 (default tables) -/

theorem test_permP10 : afterA (readyA 0x010 0 0x282 0) = some (0x20C, 0x02) := by decide
theorem test_permP8 : afterA (readyA 0x110 0 0x038 0) = some (0xA4, 0x02) := by decide
theorem test_permP8_drops_two : afterA (readyA 0x110 0 0x300 0) = some (0x00, 0x02) := by decide
theorem test_permIP : afterA (readyA 0x210 0 0xAA 0) = some (0x33, 0x02) := by decide
theorem test_permIP_one_hot : afterA (readyA 0x210 0 0x01 0) = some (0x04, 0x02) := by decide
theorem test_permFP : afterA (readyA 0x310 0 0x33 0) = some (0xAA, 0x02) := by decide
theorem test_permFP_one_hot : afterA (readyA 0x310 0 0x01 0) = some (0x02, 0x02) := by decide
theorem test_permEP : afterA (readyA 0x410 0 0x1 0) = some (0x82, 0x02) := by decide
theorem test_permEP_contract : afterA (readyA 0x410 0 0x10 0) = some (0, 0x26) := by decide
theorem test_permP4 : afterA (readyA 0x510 0 0xC 0) = some (0x9, 0x02) := by decide
theorem test_permP4_one_hot : afterA (readyA 0x510 0 0x1 0) = some (0x4, 0x02) := by decide
theorem test_rotl5_0 : afterA (readyA 0x011 0 0x201 0) = some (0x201, 0x02) := by decide
theorem test_rotl5_1 : afterA (readyA 0x111 0 0x201 0) = some (0x022, 0x02) := by decide
theorem test_rotl5_2 : afterA (readyA 0x211 0 0x2AA 0) = some (0x2C9, 0x02) := by decide
/-- By hand from R122: 00001 11000 rotated by 3 is 01000 00110. -/
theorem test_rotl5_3 : afterA (readyA 0x311 0 0x038 0) = some (0x106, 0x02) := by decide
theorem test_rotl5_4 : afterA (readyA 0x411 0 0x201 0) = some (0x110, 0x02) := by decide
theorem test_sboxS0 : (List.range 16).map (fun g => (sbox0 Config.default (BitVec.ofNat 4 g)).toNat) =
    [1, 3, 0, 2, 3, 1, 2, 0, 0, 3, 2, 1, 1, 3, 3, 2] := by decide
theorem test_sboxS0_step : afterA (readyA 0x012 0 0xF 0) = some (2, 0x02) := by decide
theorem test_sboxS1 : (List.range 16).map (fun g => (sbox1 Config.default (BitVec.ofNat 4 g)).toNat) =
    [0, 2, 1, 0, 2, 1, 3, 3, 3, 2, 0, 1, 1, 0, 0, 3] := by decide
theorem test_sboxS1_step : afterA (readyA 0x112 0 0xF 0) = some (3, 0x02) := by decide
theorem test_swap : afterA (readyA 0x013 0 0xA5 0) = some (0x5A, 0x02) := by decide
theorem test_feistel : afterA (readyA 0x014 0 0x0F 0xA4) = some (0xC, 0x02) := by decide
theorem test_feistel_contract : afterA (readyA 0x014 0 0x1AA 0x1A4) = some (0, 0x26) := by decide
theorem test_fk : afterA (readyA 0x015 0 0x0F 0xA4) = some (0xCF, 0x02) := by decide
theorem test_subkeys : nextIs (step (readyA 0x016 0x1FD 0 0)) (fun t => t.unitA.k1 == 0x5F && t.unitA.k2 == 0xFC) = true := by
  decide
theorem test_subkeys_contract : afterA (readyA 0x016 0xFFFFFFFFFFFFFFFF 0 0) = some (0, 0x26) := by decide
/-- The textbook example (93 G5). -/
theorem test_encrypt : afterA (readyA 0x017 0x282 0xBD 0) = some (0x75, 0x02) := by decide +kernel
theorem test_encrypt_contract : afterA (readyA 0x017 0x400 0xAA 0) = some (0, 0x26) := by decide
theorem test_decrypt : afterA (readyA 0x018 0x282 0x00 0) = some (0xB6, 0x02) := by decide +kernel

/-! ### Unit B vectors of 95 L2 -/

theorem test_isprime : afterB (readyB 0x020 { UnitB.reset with x := 251 } 0) = some (1, 0x02) := by decide
theorem test_isprime_square : afterB (readyB 0x020 { UnitB.reset with x := 25, res := 9 } 0) = some (0, 0x02) := by decide
theorem test_gencand : afterB (readyB 0x021 { UnitB.reset with l := 8 } 0x54) = some (213, 0x02) := by decide
theorem test_gencand_contract : afterB (readyB 0x021 { UnitB.reset with l := 65 } 0) = some (0, 0x26) := by decide
theorem test_genprime : nextIs (step (searchB 0x022 (.prime 1) { UnitB.reset with l := 8 } 0x02))
    (fun t => t.unitB.res == 131 && t.unitB.attempts == 2 && t.statusWord .b == 0x02) = true := by decide
theorem test_genprime_stays_busy : nextIs (step (readyB 0x022 { UnitB.reset with l := 8 } 0x00))
    (fun t => t.unitB.phase == .busy 0x022 (.prime 1) && t.statusWord .b == 0x01) = true := by decide
theorem test_gcd : afterB (readyB 0x023 { UnitB.reset with x := 12, y := 18 } 0) = some (6, 0x02) := by decide
theorem test_gcd_zero : afterB (readyB 0x023 { UnitB.reset with x := 0, y := 5 } 0) = some (5, 0x02) := by decide
theorem test_egcd : nextIs (step (readyB 0x024 { UnitB.reset with x := 240, y := 46 } 0))
    (fun t => t.unitB.res == 2 && t.unitB.res2 == 0xFFFFFFFFFFFFFFF7 && t.unitB.res3 == 47) = true := by decide
theorem test_egcd_top : nextIs (step (readyB 0x024 { UnitB.reset with x := 0x8000000000000000, y := 0x4000000000000001 } 0))
    (fun t => t.unitB.res == 1 && t.unitB.res2 == 0x2000000000000000 && t.unitB.res3 == 0xC000000000000001) = true := by decide
theorem test_modinv : afterB (readyB 0x025 { UnitB.reset with x := 65537, y := 60000 } 0) = some (33473, 0x02) := by decide
theorem test_modinv_noInverse : afterB (readyB 0x025 { UnitB.reset with x := 4, y := 6 } 0) = some (0, 0x36) := by decide
theorem test_modexp : afterB (readyB 0x026 { UnitB.reset with x := 4, y := 13, m := 497 } 0) = some (445, 0x02) := by decide
theorem test_modexp_top : afterB (readyB 0x026 { UnitB.reset with x := 3, y := 200, m := 0xFFFFFFFFFFFFFFFF } 0) =
    some (13784367590845050696, 0x02) := by decide
theorem test_keygen : nextIs (step (searchB 0x027 (.keyQ 7 0 1) { UnitB.reset with l := 3 } 0x0))
    (fun t => t.unitB.p == 7 && t.unitB.q == 5 && t.unitB.n == 35 && t.unitB.phi == 24 && t.unitB.e == 65537 && t.unitB.d == 17 &&
      t.unitB.attempts == 2 && t.unitB.res == 0 && t.statusWord .b == 0x02) = true := by decide
/-- PRIME_ATTEMPT_LIMIT = 2: the second attempt for q fails, the third in all. -/
theorem test_keygen_exhausted :
    nextIs (step (withConfig { Config.default with attemptLimit := 2 }
      (searchB 0x027 (.keyQ 251 1 2) { UnitB.reset with l := 8 } 0x54)))
    (fun t => t.unitB.n == 0 && t.unitB.attempts == 3 && t.statusWord .b == 0x46) = true := by decide
/-- R200: with n = 9 the code 2 encrypts to 5. -/
theorem test_encmsg : nextIs (step (withMessage 2 0 (readyB 0x028 { UnitB.reset with n := 9, e := 65537 } 0)))
    (fun t => t.mem.readByte 0x800 == some 5 && t.mem.readByte 0x807 == some 0 && t.statusWord .b == 0x02) = true := by decide
theorem test_encmsg_range :
    nextIs (step (withConfig { Config.default with rangeCheck := true }
      (withMessage 72 0 (readyB 0x028 { UnitB.reset with n := 15, e := 65537 } 0))))
    (fun t => t.mem.readByte 0x800 == some 72 && t.statusWord .b == 0x56) = true := by decide
/-- 33278 is 0x81FE. -/
theorem test_decmsg : nextIs (step (withMessage 0xFE 0x81 (readyB 0x029 { UnitB.reset with n := 60491, d := 33473 } 0)))
    (fun t => t.mem.readByte 0x800 == some 72 && t.mem.readByte 0x801 == some 0) = true := by decide
theorem test_decmsg_contract : afterB (readyB 0x029 { UnitB.reset with n := 5, msgLen := 257 } 0) = some (0, 0x26) := by decide

/-! ### The host port, vectors of 95 L2 -/

theorem test_info : infoWord { Config.default with pkWidth := 32, rangeCheck := true, msgDepth := 16, attemptLimit := 100 } =
    0x0000000100100120 := by decide
theorem test_unmapped : [0x040, 0x188, 0x7F0, 0x00C, 0x800, 0xFF8].map (targetAt { Config.default with msgDepth := 16 }) =
    [none, none, none, none, some (.msg 0), none] := by decide
theorem test_narrow_read : (transact (.read 0x008 .w32) State.reset).port = .busError := by decide
theorem test_write_ro : transact (.write 0x028 .w64 1) (readyA 0x17 0 0 0) = { readyA 0x17 0 0 0 with port := .busError } := by decide
theorem test_status_write_ignored : (transact (.write 0x008 .w64 0x07) State.reset).unitA = UnitA.reset := by decide
theorem test_other_unit_writable : (transact (.write 0x110 .w64 5) (readyA 0x17 0 0 0)).unitB.x = 5 := by decide
/-- Program 6 of 95 L3: a refused write while Unit B hangs. -/
theorem test_overrun : (transact (.write 0x110 .w64 5) (searchB 0x022 (.prime 9) { UnitB.reset with l := 1 } 0)).statusWord .b = 0x09 := by
  decide
/-- R104: the operations of a RUN and a LOADMSG line. -/
theorem test_assemble : assemble Config.default [.run .keygen, .loadmsg [7], .clrovr .a] =
    [.bus (.write 0x100 .w64 0x27), .wait .b, .bus (.write 0x800 .w64 7), .bus (.write 0x148 .w64 1), .bus (.write 0x008 .w64 8)] := by
  decide
/-- R104, R329: a CHECK that reads ERR = 1 stops the program; the run is over when it was the last line, and not before. -/
theorem test_check_stops : ∀ ops ∈ [[], [HostOp.wait .a]],
    nextIs (step { errA State.reset .contract with host := .check .a :: ops, sched := [.host] })
      (fun t => t.hostFailed && t.host == ops && t.runOver == ops.isEmpty) = true := by decide
theorem test_fetch_word : nextIs (step (State.reset.withFetchWord 64 0x013)) (fun t => t.statusWord .a == 0x02) = true := by decide

/-! ### Witnesses: a state and operands that meet the hypotheses of each statement together, at the edges of their ranges -/

/-- Unit B in KEYGEN's second stage with p = 5, B_L = 3, about to draw 7. -/
def secondStage : State := searchB 0x027 (.keyQ 5 0 1) { UnitB.reset with l := 3 } 2

/-- The state with its configuration's datapath narrowed to 18 bits. -/
def narrow (s : State) : State := withConfig { Config.default with pkWidth := 18 } s

/-- The state with its configuration's attempt limit set. -/
def limited (n : Nat) (s : State) : State := withConfig { Config.default with attemptLimit := n } s

/-- The state with Unit B's operands only, at the widest value the datapath holds or beyond it. -/
def operandsB (x y m : Word) : State := { State.reset with unitB := { UnitB.reset with x := x, y := y, m := m } }

theorem secondStage_inv : EngineInv secondStage where
  config := by decide
  canonical := by decide
  inBuffer := by decide
  wholeEntries := fun _ _ _ => rfl
  statusA := by decide
  statusB := by decide
  latchA := fun _ h => by cases h
  latchB := fun _ _ h => by cases h; rfl
  widthsA := by decide
  widthsB := by decide
  search := ⟨rfl, by decide, by decide, by decide, by decide, by decide, rfl, by decide, by decide⟩

theorem witness_IllegalWordRaisesIllegal :
    (IllegalWord .a 0x817 ∧ (readyA 0x817 0 0 0).unitA.phase = .busy 0x817) ∧ IllegalWord .a 0x019 ∧ IllegalWord .a 0x511 ∧
      (IllegalWord .b 0x02A ∧ (readyB 0x02A UnitB.reset 0).unitB.phase = .busy 0x02A .fresh) ∧ IllegalWord .b 0x01F := by
  refine ⟨⟨.inl (by decide), rfl⟩, .inr (.inl ?_), .inr (.inr ?_), ⟨.inr (.inl ?_), rfl⟩, .inr (.inl ?_)⟩ <;>
    simp [OpcodeLegal, SelLegal]

theorem witness_StepRunsTheDecodedCommand :
    (readyA 0x017 0 0 0).sched = [.unitA] ∧ (readyA 0x017 0 0 0).unitA.phase = .busy 0x017 ∧ decode .a 0x017 = .ok .encrypt ∧
      (readyB 0x027 UnitB.reset 9).sched = [.unitB 9] ∧ (readyB 0x027 UnitB.reset 9).unitB.phase = .busy 0x027 .fresh ∧
      decode .b 0x027 = .ok .keygen := by decide

theorem witness_IdleUnitTakesNoStep :
    (readyB 0x027 UnitB.reset 9).unitA.phase = .idle ∧ (readyA 0x017 0 0 0).unitB.phase = .idle ∧
      (readyA 0x017 0 0 0).sched = .unitA :: [] := by decide

theorem witness_ResetEventClearsTheBlock :
    ({ secondStage with sched := [.reset] } : State).sched = .reset :: [] ∧ secondStage.unitB.busy = true := by decide

theorem witness_UnitsAreIndependent :
    nextIs (step (readyA 0x013 0 0xA5 0)) (fun t => t.unitA.res == 0x5A) = true ∧
      nextIs (step secondStage) (fun t => t.unitB.q == 7) = true ∧ secondStage.sched = .unitB 2 :: [] := by decide

theorem witness_CommandsReadOnlyTheirUnit :
    (readyA 0x013 0 0xA5 0).unitA = ({ readyA 0x013 0 0xA5 0 with unitB := secondStage.unitB } : State).unitA ∧
      nextIs (exec .swap (readyA 0x013 0 0xA5 0)) (fun t => t.unitA.res == 0x5A) = true ∧
      nextIs (exec .keygen { secondStage with unitA := (readyA 0x013 0 0xA5 0).unitA }) (fun t => t.unitB.q == 7) = true := by decide

theorem witness_OnlyOwnStepsAndResetEndBusy :
    (readyA 0x013 0 0xA5 0).unitA.busy = true ∧ nextIs (step (readyA 0x013 0 0xA5 0)) (fun t => !t.unitA.busy) = true ∧
      secondStage.unitB.busy = true ∧ nextIs (step { secondStage with sched := [.reset] }) (fun t => !t.unitB.busy) = true := by decide

theorem witness_EveryStepKeepsTheInvariant :
    EngineInv secondStage ∧ nextIs (step secondStage) (fun t => t.unitB.n == 35) = true := ⟨secondStage_inv, by decide⟩

theorem witness_UnitATemplate :
    OperandsFit .fk (readyA 0x015 0 0xFF 0xFF).unitA ∧ ¬OperandsFit .fk (readyA 0x015 0 0xFF 0x100).unitA ∧
      OperandsFit .subkeys (readyA 0x016 0x3FF 0x1000 0).unitA ∧ ¬OperandsFit .sboxS0 (readyA 0x012 0 0x10 0).unitA := by
  refine ⟨⟨?_, ?_, ?_⟩, fun h => ?_, ⟨?_, ?_, ?_⟩, fun h => ?_⟩
  · rintro w ⟨⟩; decide
  · decide
  · decide
  · exact absurd (h.2.1 rfl) (by decide)
  · rintro w ⟨⟩
  · decide
  · decide
  · exact absurd (h.1 4 rfl) (by decide)

/-- Witness for PermCommandsPermute, Rotl5RotatesEachHalf, SboxCommandsLookUp, SwapExchangesHalves, FeistelAndFkComputeTheRound,
SubkeysRunsTheKeySchedule and EncryptAndDecryptAreTheCommandChain: operands at the top of their widths. -/
theorem witness_unit_A_operands :
    (readyA 0x010 0 0x3FF 0).unitA.src.toNat < 2 ^ 10 ∧ (readyA 0x210 0 0xFF 0).unitA.src.toNat < 2 ^ 8 ∧
      (readyA 0x012 0 0xF 0).unitA.src.toNat < 2 ^ 4 ∧ (readyA 0x015 0 0xFF 0xFF).unitA.subkey.toNat < 2 ^ 8 ∧
      (readyA 0x016 0x3FF 0 0).unitA.key.toNat < 2 ^ 10 := by decide

theorem witness_DecryptInvertsEncrypt :
    Config.default.TablesOk ∧ (readyA 0x017 0x3FF 0xFF 0).unitA.src.toNat < 2 ^ 8 ∧
      (readyA 0x018 0x3FF 0x0F 0).unitA.key = (readyA 0x017 0x3FF 0xFF 0).unitA.key ∧
      afterA (readyA 0x017 0x3FF 0xFF 0) = some ((readyA 0x018 0x3FF 0x0F 0).unitA.src, 0x02) := by decide +kernel

theorem witness_IsprimeReportsPrimality :
    (narrow (operandsB 0x3FFFF 0 0)).unitB.x.toNat < 2 ^ (narrow (operandsB 0x3FFFF 0 0)).cfg.pkWidth ∧
      ¬(narrow (operandsB 0x40000 0 0)).unitB.x.toNat < 2 ^ (narrow (operandsB 0x40000 0 0)).cfg.pkWidth ∧
      Nat.Prime (operandsB 2 0 0).unitB.x.toNat ∧ ¬Nat.Prime (operandsB 1 0 0).unitB.x.toNat := by decide

theorem witness_GencandForcesTopAndBottomBit :
    (readyB 0x021 { UnitB.reset with l := 1 } 0).cfg.WF ∧ 1 ≤ (1#64).toNat ∧ (64#64).toNat ≤ Config.default.pkWidth ∧
      Config.default.pkWidth < (65#64).toNat := by decide

theorem witness_GcdWritesTheGcd :
    (operandsB 0 0 0).unitB.x.toNat < 2 ^ 18 ∧ (operandsB 0 0x3FFFF 0).unitB.y.toNat < 2 ^ (narrow State.reset).cfg.pkWidth ∧
      ¬((operandsB 0 0x40000 0).unitB.y.toNat < 2 ^ (narrow State.reset).cfg.pkWidth) := by decide

theorem witness_ModinvWritesTheInverse :
    (2 ≤ (operandsB 1 2 0).unitB.y.toNat ∧ Nat.gcd (operandsB 1 2 0).unitB.x.toNat (operandsB 1 2 0).unitB.y.toNat = 1) ∧
      Nat.gcd (operandsB 0 2 0).unitB.x.toNat (operandsB 0 2 0).unitB.y.toNat ≠ 1 ∧ ¬2 ≤ (operandsB 3 1 0).unitB.y.toNat := by decide

theorem witness_ModexpWritesThePower :
    (operandsB 0 0 1).unitB.m.toNat ≠ 0 ∧ (operandsB 0 0 1).unitB.m.toNat < 2 ^ (operandsB 0 0 1).cfg.pkWidth ∧
      ¬(operandsB 0 0 0).unitB.m.toNat ≠ 0 := by decide

/-- The candidate of the draw 0x02 at 8 bits is 131, a prime, and that of 0x00 is 129 = 3 * 43 (95 L2). -/
theorem candidates_of_8_bits : CandidateOf 8 0x02 131 ∧ CandidateOf 8 0x00 129 := by
  have h1 := candidate_candidateOf 8 0x02 (by decide) (by decide)
  have h2 := candidate_candidateOf 8 0x00 (by decide) (by decide)
  rw [show candidate 8 ((0x02 : Word).toNat % 2 ^ 8) = 131 by decide] at h1
  rw [show candidate 8 ((0x00 : Word).toNat % 2 ^ 8) = 129 by decide] at h2
  exact ⟨h1, h2⟩

theorem witness_GenprimeAttempt :
    (limited 3 State.reset).cfg.WF ∧ CandidateOf 8 0x02 131 ∧ CandidateOf 8 0x00 129 ∧ Nat.Prime 131 ∧ ¬Nat.Prime 129 ∧
      genprimeAttempts (searchB 0x022 (.prime 2) { UnitB.reset with l := 8 } 0) + 1 = (limited 3 State.reset).cfg.attemptLimit ∧
      genprimeAttempts (readyB 0x022 { UnitB.reset with l := 8 } 0) + 1 ≠ (limited 3 State.reset).cfg.attemptLimit :=
  ⟨by decide, candidates_of_8_bits.1, candidates_of_8_bits.2, by norm_num, by norm_num, by decide, by decide⟩

theorem witness_SearchWithBadLengthRaisesContract :
    (readyB 0x022 { UnitB.reset with l := 65 } 0).unitB.phase = .busy 0x022 .fresh ∧ Config.default.pkWidth < (65#64).toNat ∧
      Config.default.pkWidth / 2 < (33#64).toNat ∧ (0#64).toNat = 0 := by decide

theorem witness_KeygenFirstStageAttempt :
    (limited 2 State.reset).cfg.WF ∧ inSecondStage (searchB 0x027 (.keyP 1 1) { UnitB.reset with l := 8 } 0x02) = false ∧
      (8#64).toNat ≤ Config.default.pkWidth / 2 ∧ CandidateOf 8 0x02 131 ∧ CandidateOf 8 0x00 129 ∧
      keygenAttempts (searchB 0x027 (.keyP 1 1) { UnitB.reset with l := 8 } 0) + 1 = (limited 2 State.reset).cfg.attemptLimit ∧
      keygenAttempts (readyB 0x027 { UnitB.reset with l := 8 } 0) + 1 ≠ (limited 2 State.reset).cfg.attemptLimit :=
  ⟨by decide, by decide, by decide, candidates_of_8_bits.1, candidates_of_8_bits.2, by decide, by decide⟩

theorem witness_KeygenSecondStageFailedAttempt :
    (limited 2 State.reset).cfg.WF ∧
      (searchB 0x027 (.keyQ 131 1 2) { UnitB.reset with l := 8 } 0).unitB.phase = .busy 0x027 (.keyQ 131 1 2) ∧
      CandidateOf 8 0x00 129 ∧ ¬Nat.Prime 129 ∧ 1 + 1 = (limited 2 State.reset).cfg.attemptLimit :=
  ⟨by decide, rfl, candidates_of_8_bits.2, by norm_num, rfl⟩

/-- The candidate of the draw 2 at 3 bits is 7 (95 L2). -/
theorem candidate_of_3_bits : CandidateOf 3 2 7 := by
  have h := candidate_candidateOf 3 2 (by decide) (by decide)
  rwa [show candidate 3 ((2 : Word).toNat % 2 ^ 3) = 7 by decide] at h

theorem witness_KeygenCompletesWithAKeyPair :
    secondStage.cfg.WF ∧ secondStage.unitB.phase = .busy 0x027 (.keyQ 5 0 1) ∧ secondStage.unitB.l.toNat = 3 ∧ Nat.Prime 5 ∧
      5 % 2 = 1 ∧ 5 < 2 ^ 3 ∧ CandidateOf 3 secondStage.entropy 7 ∧ Nat.Prime 7 :=
  ⟨by decide, rfl, rfl, by norm_num, rfl, by decide, candidate_of_3_bits, by norm_num⟩

theorem witness_GenprimeOfLengthOneHangs :
    (searchB 0x022 (.prime 9) { UnitB.reset with l := 1 } 5).unitB.phase = .busy (encode .genprime) (.prime 9) ∧
      (searchB 0x022 (.prime 9) { UnitB.reset with l := 1 } 5).sched = .unitB 5 :: [] ∧ Config.default.attemptLimit = 0 := by decide

/-- Unit B Idle with the key pair of p = 5, q = 7 and a message of one element, 34 = n - 1. -/
def keyed : State := withMessage 34 0 { State.reset with unitB := { UnitB.reset with n := 35, e := 65537, d := 17 } }

theorem keyed_message : MessageIs keyed [34] := by
  refine ⟨rfl, fun i h => ?_⟩
  have h0 : i = 0 := by simpa using h
  subst h0
  show keyed.mem.readWord (msgOffset 0) = some 34
  decide

theorem witness_MessageCommandsTransformInPlace :
    MessageExponent .encmsg keyed 65537 ∧ MessageExponent .decmsg keyed 17 ∧ MessageKeyOk keyed 65537 ∧ MessageIs keyed [34] ∧
      keyed.mem.wf ∧ (34#64).toNat < 2 ^ keyed.cfg.pkWidth ∧ (34#64).toNat < keyed.unitB.n.toNat :=
  ⟨.inl ⟨rfl, rfl⟩, .inr ⟨rfl, rfl⟩, ⟨by decide, by decide, by decide, by decide⟩, keyed_message, by decide, by decide, by decide⟩

/-- The same message in a datapath of 18 bits, and under a modulus it is not below, with RANGE_CHECK set. -/
theorem witness_MessageCommandErrors :
    ¬MessageKeyOk State.reset 0 ∧ ¬(0x40000#64).toNat < 2 ^ (narrow keyed).cfg.pkWidth ∧
      (withConfig { Config.default with rangeCheck := true } keyed).cfg.rangeCheck = true ∧
      MessageKeyOk { keyed with unitB := { keyed.unitB with n := 34 } } 65537 ∧
      ({ keyed with unitB := { keyed.unitB with n := 34 } } : State).unitB.n.toNat ≤ (34#64).toNat :=
  ⟨fun h => h.2.2.1 rfl, by decide, rfl, ⟨by decide, by decide, by decide, by decide⟩, by decide⟩

theorem witness_UnwrittenEntriesDoNotStopMessages :
    MessageExponent .encmsg { keyed with mem := [] } 65537 ∧ MessageKeyOk { keyed with mem := [] } 65537 ∧
      ({ keyed with mem := [] } : State).cfg.pkWidth = 64 ∧ ({ keyed with mem := [] } : State).cfg.rangeCheck = false :=
  ⟨.inl ⟨rfl, rfl⟩, ⟨by decide, by decide, by decide, by decide⟩, rfl, rfl⟩

theorem witness_MessageRoundTrip :
    EngineInv secondStage ∧
      nextIs (exec .keygen secondStage) (fun t => t.unitB.phase == .idle && t.unitB.status.err == none && t.unitB.p != t.unitB.q &&
        t.unitB.n == keyed.unitB.n && t.unitB.e == keyed.unitB.e && t.unitB.d == keyed.unitB.d) = true ∧
      keyed.cfg = secondStage.cfg ∧ keyed.mem.wf ∧ MessageIs keyed [34] ∧ (34#64).toNat < keyed.unitB.n.toNat :=
  ⟨secondStage_inv, by decide, rfl, by decide, keyed_message, by decide⟩

theorem witness_ErrorsArePrecise :
    nextIs (exec .modinv (operandsB 4 6 0)) (fun t => t.unitB.status.err == some .noInverse && t.unitB.phase == .idle) = true ∧
      nextIs (exec .encrypt (readyA 0x017 0x400 0 0)) (fun t => t.unitA.status.err == some .contract) = true ∧
      nextIs (exec .keygen (limited 1 (searchB 0x027 .fresh { UnitB.reset with l := 8 } 0)))
        (fun t => t.unitB.status.err == some .exhausted) = true := by decide

theorem witness_UnitBCommandFrame :
    keyed.mem.wf ∧ nextIs (exec .encmsg keyed) (fun t => t.unitB.status.done) = true ∧ Instr.unit .encmsg = .b := by decide

theorem witness_BusErrorChangesNothing :
    Width.w32 ≠ .w64 ∧ 0x00C % 8 ≠ 0 ∧ Unmapped Config.default 0x040 ∧ Unmapped { Config.default with msgDepth := 255 } 0xFF8 ∧
      Reg.info.access = .ro ∧ Reg.info.offset = 0x7F8 := by
  refine ⟨by decide, by decide, ⟨?_, ?_⟩, ⟨?_, ?_⟩, rfl, rfl⟩
  · intro r; cases r <;> decide
  · intro i _; unfold msgOffset; omega
  · intro r; cases r <;> decide
  · intro i h; simp at h; unfold msgOffset; omega

theorem witness_WriteToABusyUnitIsRefused :
    (readyA 0x017 0 0 0).unitA.busy = true ∧ Reg.aSrc.owner = some .a ∧ Reg.aSrc.access = .rw ∧ secondStage.unitB.busy = true ∧
      Reg.bCmd.owner = some .b ∧ Reg.bCmd.access = .cmd ∧ 255 < secondStage.cfg.msgDepth := by decide

theorem witness_RegisterWriteThenRead :
    Reg.bD.access = .rw ∧ Reg.bD.owner = some .b ∧ (readyA 0x017 0 0 0).busy .b = false := by decide

theorem witness_StatusWordLayout :
    EngineInv secondStage ∧ regValue (statusReg .b) secondStage = 0x01 ∧
      nextIs (exec .modinv (operandsB 4 6 0)) (fun t => regValue (statusReg .b) t == 0x36) = true :=
  ⟨secondStage_inv, by decide, by decide⟩

theorem witness_WhatAReadReturns :
    secondStage.unitB.busy = true ∧ Reg.bRes.access = .ro ∧ Reg.bRes.owner = some .b ∧ secondStage.unitA.busy = false ∧
      keyed.mem.readWord (msgOffset 0) = some 34 ∧ keyed.mem.readWord (msgOffset 255) = none := by decide

theorem witness_MessageEntryWriteThenRead :
    keyed.mem.wf ∧ 255 < keyed.cfg.msgDepth ∧ keyed.cfg.msgDepth ≤ 256 ∧ keyed.unitB.phase = .idle := by decide

theorem witness_WaitAndCheckLines :
    (secondStage.statusWord .b).getLsbD 0 = true ∧ (secondStage.statusWord .b).getLsbD 2 = false ∧
      nextIs (exec .modinv (operandsB 4 6 0)) (fun t => (t.statusWord .b).getLsbD 2) = true ∧
      ({ secondStage with host := [.wait .b], hostFailed := true } : State).host ≠ [] ∧
      nextIs (step { secondStage with host := [.wait .b], hostFailed := true }) (fun t => t.unitB.q == 7) = true := by decide

theorem witness_CommandLineIssuesTheCommand :
    State.reset.busy .a = false ∧ secondStage.busy .a = false ∧ State.reset.hostFailed = false ∧
      assemble Config.default [.command .swap] = [.bus (.write 0x000 .w64 0x013)] := by decide

theorem witness_ConfigurationNeverChanges :
    nextIs (step (narrow secondStage)) (fun t => t.unitB.n == 35 && t.cfg == (narrow secondStage).cfg) = true := by decide

theorem witness_EgcdWritesBezoutCoefficients :
    ((narrow (operandsB 0x3FFFF 0x3FFFF 0)).unitB.x.toNat < 2 ^ (narrow State.reset).cfg.pkWidth ∧
      (narrow (operandsB 0x3FFFF 0x3FFFF 0)).unitB.y.toNat < 2 ^ (narrow State.reset).cfg.pkWidth) ∧
      ¬(narrow (operandsB 1 0x40000 0)).unitB.y.toNat < 2 ^ (narrow State.reset).cfg.pkWidth := by decide

theorem witness_EgcdFollowsEuclid : 46 ≠ 0 ∧ 240 < 2 ^ 64 ∧ 46 < 2 ^ 64 := by decide

theorem witness_OneStepCommandsComplete :
    (Instr.decrypt ≠ .genprime ∧ Instr.decrypt ≠ .keygen ∧ Instr.decrypt.unit = .a) ∧
      Instr.encmsg ≠ .genprime ∧ Instr.encmsg ≠ .keygen ∧ Instr.encmsg.unit = .b := by decide

theorem witness_WhoRaisesWhichCode :
    nextIs (exec .genprime (limited 1 (searchB 0x022 .fresh { UnitB.reset with l := 8 } 0)))
        (fun t => t.unitB.status.err == some .exhausted && t.unitB.phase == .idle) = true ∧
      nextIs (exec .encmsg (withConfig { Config.default with rangeCheck := true } { keyed with unitB := { keyed.unitB with n := 34 } }))
        (fun t => t.unitB.status.err == some .range && t.unitB.phase == .idle) = true ∧
      nextIs (exec .swap (readyA 0x013 0 0x100 0)) (fun t => t.unitA.status.err == some .contract) = true := by decide

theorem witness_CommandWriteIsAccepted :
    secondStage.unitA.phase = .idle ∧ (readyA 0x017 0 0 0).unitB.phase = .idle := by decide

theorem witness_InfoReportsTheConfiguration :
    (narrow secondStage).cfg.WF ∧ nextIs (step (narrow secondStage)) (fun t => t.unitB.n == 35) = true := by decide

end Sys2Proof.Tests
end

section
/-! The frame law of the commands: a command commutes with replacing everything its unit does not read (R2, R322), and the
noninterference that follows. -/

namespace Sys2Proof.Machine

open Sys2Proof

/-- `o` with what the commands of unit `u` read and write taken from `s`: the configuration and Unit A's registers, or the
configuration, Unit B's registers, the message buffer, the entropy input and the index of the next free value. -/
def transplant (u : UnitId) (o s : State) : State :=
  match u with
  | .a => { o with cfg := s.cfg, unitA := s.unitA }
  | .b => { o with cfg := s.cfg, unitB := s.unitB, mem := s.mem, entropy := s.entropy, freeCount := s.freeCount }

/-- A result with its next state changed. -/
def mapNext (f : State → State) : Result → Result
  | .next s => .next (f s)
  | .fault r => .fault r
  | .refused r => .refused r

@[simp] theorem transplant_cfg (u : UnitId) (o s : State) : (transplant u o s).cfg = s.cfg := by cases u <;> rfl
@[simp] theorem transplant_a_unitA (o s : State) : (transplant .a o s).unitA = s.unitA := rfl
@[simp] theorem transplant_b_unitB (o s : State) : (transplant .b o s).unitB = s.unitB := rfl
@[simp] theorem transplant_b_mem (o s : State) : (transplant .b o s).mem = s.mem := rfl
@[simp] theorem attemptCandidate_transplant (o s : State) :
    attemptCandidate (transplant .b o s) = attemptCandidate s := rfl

theorem transplant_a_eq_self {o s : State} (hcfg : s.cfg = o.cfg) (hA : s.unitA = o.unitA) : transplant .a o s = o := by
  simp only [transplant, hcfg, hA]

theorem transplant_b_eq_self {o s : State} (hcfg : s.cfg = o.cfg) (hB : s.unitB = o.unitB) (hmem : s.mem = o.mem)
    (hent : s.entropy = o.entropy) (hfree : s.freeCount = o.freeCount) : transplant .b o s = o := by
  simp only [transplant, hcfg, hB, hmem, hent, hfree]

theorem raiseError_transplant (u : UnitId) (c : ErrCode) (o s : State) :
    raiseError u c (transplant u o s) = mapNext (transplant u o) (raiseError u c s) := by
  cases u <;> rfl

/-- A check commutes with a transplant when what follows it does. -/
theorem require_transplant {p : Prop} [Decidable p] {u : UnitId} {c : ErrCode} {o s : State} {go go' : Result}
    (h : go' = mapNext (transplant u o) go) :
    require p u c (transplant u o s) go' = mapNext (transplant u o) (require p u c s go) := by
  by_cases hp : p
  · rw [require_pos hp, require_pos hp, h]
  · rw [require_neg hp, require_neg hp, raiseError_transplant]

theorem readEntry_transplant (i : Nat) (o s : State) :
    readEntry i (transplant .b o s) = ((readEntry i s).1, transplant .b o (readEntry i s).2) := by
  cases h : s.mem.readWord (msgOffset i) with
  | some v => rw [readEntry_written h, readEntry_written (s := transplant .b o s) h]
  | none => rw [readEntry_unwritten h, readEntry_unwritten (s := transplant .b o s) h]; rfl

theorem readEntries_transplant (count start : Nat) (o s : State) :
    readEntries count start (transplant .b o s) =
      ((readEntries count start s).1, transplant .b o (readEntries count start s).2) := by
  induction count generalizing start s with
  | zero => rfl
  | succ count ih => simp only [readEntries, readEntry_transplant, ih]

theorem transformEntries_transplant (x n len : Nat) (o s : State) :
    transformEntries x n len (transplant .b o s) = mapNext (transplant .b o) (transformEntries x n len s) := by
  unfold transformEntries
  rw [transplant_cfg]
  cases s.cfg.rangeCheck <;> simp only [readEntries_transplant, if_true, Bool.false_eq_true, if_false] <;>
    exact require_transplant (require_transplant rfl)

theorem transformMessage_transplant (x : Word) (o s : State) :
    transformMessage x (transplant .b o s) = mapNext (transplant .b o) (transformMessage x s) :=
  require_transplant (require_transplant (require_transplant (transformEntries_transplant _ _ _ o s)))

theorem genprimeAttempt_transplant (before : Nat) (o s : State) :
    genprimeAttempt before (transplant .b o s) = mapNext (transplant .b o) (genprimeAttempt before s) := by
  unfold genprimeAttempt
  rw [attemptCandidate_transplant, transplant_cfg]
  split_ifs <;> rfl

theorem finishKeygen_transplant (p q total : Nat) (o s : State) :
    finishKeygen p q total (transplant .b o s) = mapNext (transplant .b o) (finishKeygen p q total s) := by
  unfold finishKeygen
  rw [transplant_cfg]
  cases derive s.cfg.pkWidth p q <;> rfl

theorem keygenAttemptP_transplant (before total : Nat) (o s : State) :
    keygenAttemptP before total (transplant .b o s) = mapNext (transplant .b o) (keygenAttemptP before total s) := by
  unfold keygenAttemptP
  rw [attemptCandidate_transplant, transplant_cfg]
  split_ifs <;> rfl

theorem keygenAttemptQ_transplant (p before total : Nat) (o s : State) :
    keygenAttemptQ p before total (transplant .b o s) = mapNext (transplant .b o) (keygenAttemptQ p before total s) := by
  unfold keygenAttemptQ
  rw [attemptCandidate_transplant, transplant_cfg]
  split_ifs
  · exact finishKeygen_transplant _ _ _ o s
  · rfl
  · rfl

theorem execGenprime_transplant (o s : State) :
    execGenprime (transplant .b o s) = mapNext (transplant .b o) (execGenprime s) := by
  unfold execGenprime
  rw [transplant_b_unitB]
  split
  · exact genprimeAttempt_transplant _ o s
  · exact require_transplant (s := s.mapB (setAttempts 0)) (genprimeAttempt_transplant 0 o s)

theorem execKeygen_transplant (o s : State) :
    execKeygen (transplant .b o s) = mapNext (transplant .b o) (execKeygen s) := by
  unfold execKeygen
  rw [transplant_b_unitB]
  split
  · exact keygenAttemptP_transplant _ _ o s
  · exact keygenAttemptQ_transplant _ _ _ o s
  · exact require_transplant (s := s.mapB (setAttempts 0)) (keygenAttemptP_transplant 0 0 o s)

/-- R2, R322: a command gives the same outcome whatever stands in the parts of the state its unit does not read, and leaves them
as they are. -/
theorem exec_transplant (i : Instr) (o s : State) :
    exec i (transplant i.unit o s) = mapNext (transplant i.unit o) (exec i s) := by
  cases i with
  | permP10 | permP8 | permIP | permFP | permEP | permP4 | rotl5_0 | rotl5_1 | rotl5_2 | rotl5_3 | rotl5_4 | sboxS0 | sboxS1
  | swap | subkeys => exact require_transplant rfl
  | feistel | fk | encrypt | decrypt => exact require_transplant (require_transplant rfl)
  | isprime | gencand => exact require_transplant rfl
  | gcd | egcd => exact require_transplant (require_transplant rfl)
  | modinv | modexp => exact require_transplant (require_transplant (require_transplant (require_transplant rfl)))
  | genprime => exact execGenprime_transplant o s
  | keygen => exact execKeygen_transplant o s
  | encmsg => exact transformMessage_transplant s.unitB.e o s
  | decmsg => exact transformMessage_transplant s.unitB.d o s

/-- A state that agrees with `s` on what the command's unit reads steps to one that agrees with the next state of `s`. -/
theorem exec_next_of_transplant_eq {i : Instr} {s s' t t' : State} (h : transplant i.unit s' s = s')
    (ht : exec i s = .next t) (ht' : exec i s' = .next t') : t' = transplant i.unit s' t := by
  have key := exec_transplant i s' s
  rw [h, ht, ht'] at key
  exact Host.Outcome.next.inj key

/-- Settles O12: the second run is the first one transplanted into the second state, so both leave the unit the same. -/
theorem commandsReadOnlyTheirUnit : Obligations.CommandsReadOnlyTheirUnit := by
  intro i s s' t t' hcfg ht ht'
  refine ⟨fun hu hA => ?_, fun hu hB hmem hent hfree => ?_⟩
  · have hs : transplant i.unit s' s = s' := by rw [hu, transplant_a_eq_self hcfg hA]
    rw [exec_next_of_transplant_eq hs ht ht', hu, transplant_a_unitA]
  · have hs : transplant i.unit s' s = s' := by rw [hu, transplant_b_eq_self hcfg hB hmem hent hfree]
    rw [exec_next_of_transplant_eq hs ht ht', hu, transplant_b_unitB, transplant_b_mem]
    exact ⟨rfl, rfl⟩

end Sys2Proof.Machine
end

section
/-! What the commands and the events leave unchanged: the frame of a Unit B command, and the configuration under every event. -/

namespace Sys2Proof.Machine

open Sys2Proof

theorem exec_b_outcome {i : Instr} {s t : State} (hu : i.unit = .b) (h : exec i s = .next t) : UnitBOutcome i s t := by
  obtain ⟨t', ht', ho⟩ := exec_unitB_outcome i s hu
  rwa [Host.Outcome.next.inj (h.symm.trans ht')]

/-- A Unit A command leaves everything but Unit A. -/
theorem exec_a_frame {i : Instr} {s t : State} (hu : i.unit = .a) (h : exec i s = .next t) :
    t = { s with unitA := t.unitA } := by
  rcases exec_unitA_cases i s hu with ⟨res, k1, k2, e⟩ | e <;>
  · obtain rfl := Host.Outcome.next.inj (h.symm.trans e)
    rfl

namespace UnitBOutcome

variable {i : Instr} {s t : State}

theorem frame (h : UnitBOutcome i s t) : t = { s with unitB := t.unitB, mem := t.mem, freeCount := t.freeCount } := by
  cases h <;> rfl

theorem operands_kept (h : UnitBOutcome i s t) :
    t.unitB.cmd = s.unitB.cmd ∧ t.unitB.x = s.unitB.x ∧ t.unitB.y = s.unitB.y ∧ t.unitB.m = s.unitB.m ∧
      t.unitB.l = s.unitB.l ∧ t.unitB.msgLen = s.unitB.msgLen ∧ t.unitB.status.ovr = s.unitB.status.ovr := by
  cases h <;> exact ⟨rfl, rfl, rfl, rfl, rfl, rfl, rfl⟩

theorem res_kept (h : UnitBOutcome i s t) (hi : i = .keygen ∨ i = .encmsg ∨ i = .decmsg) : t.unitB.res = s.unitB.res := by
  cases h with
  | failed | searchFailed | messageFailed | busy | pair | message => rfl
  | result n hn => obtain ⟨h1, h2, h3, -, -⟩ := hn; simp [h1, h2, h3] at hi
  | bezout r he => simp [he] at hi
  | prime n c hg => simp [hg] at hi

theorem coefficients_kept (h : UnitBOutcome i s t) (hi : i ≠ .egcd) :
    t.unitB.res2 = s.unitB.res2 ∧ t.unitB.res3 = s.unitB.res3 := by
  cases h with
  | failed | searchFailed | messageFailed | busy | result | prime | pair | message => exact ⟨rfl, rfl⟩
  | bezout r he => exact absurd he hi

theorem keys_kept (h : UnitBOutcome i s t) (hi : i ≠ .keygen) :
    t.unitB.p = s.unitB.p ∧ t.unitB.q = s.unitB.q ∧ t.unitB.phi = s.unitB.phi ∧ t.unitB.n = s.unitB.n ∧
      t.unitB.e = s.unitB.e ∧ t.unitB.d = s.unitB.d := by
  cases h with
  | failed | searchFailed | messageFailed | busy | result | bezout | prime | message => exact ⟨rfl, rfl, rfl, rfl, rfl, rfl⟩
  | pair p q n k hk => exact absurd hk hi

theorem attempts_kept (h : UnitBOutcome i s t) (hg : i ≠ .genprime) (hk : i ≠ .keygen) :
    t.unitB.attempts = s.unitB.attempts := by
  cases h with
  | failed | messageFailed | busy | result | bezout | message => rfl
  | searchFailed c n hc hi => exact absurd hi (by simp [hg, hk])
  | prime n c hi => exact absurd hi hg
  | pair p q n k hi => exact absurd hi hk

/-- The message buffer is left alone, or the first B_MSGLEN entries are replaced by a message command. -/
theorem mem_cases (h : UnitBOutcome i s t) :
    t.mem = s.mem ∨ (i = .encmsg ∨ i = .decmsg) ∧ ∃ vs : List Word, vs.length = s.unitB.msgLen.toNat ∧
      s.unitB.msgLen.toNat ≤ s.cfg.msgDepth ∧ t.mem = s.mem.writeEntries 0 vs := by
  cases h with
  | failed | searchFailed | messageFailed | busy | result | bezout | prime | pair => exact .inl rfl
  | message k vs x hi hl hd => exact .inr ⟨hi, _, by rw [List.length_map, hl], hd, rfl⟩

theorem freeCount_kept (h : UnitBOutcome i s t) (he : i ≠ .encmsg) (hd : i ≠ .decmsg) : t.freeCount = s.freeCount := by
  cases h with
  | failed | searchFailed | busy | result | bezout | prime | pair => rfl
  | messageFailed c k hc hi => exact absurd hi (by simp [he, hd])
  | message k vs x hi => exact absurd hi (by simp [he, hd])

theorem mem_kept (h : UnitBOutcome i s t) (he : i ≠ .encmsg) (hd : i ≠ .decmsg) : t.mem = s.mem := by
  rcases h.mem_cases with hm | ⟨hi, -⟩
  · exact hm
  · exact absurd hi (by simp [he, hd])

theorem readByte_outside_message (h : UnitBOutcome i s t) (hwf : s.mem.wf) {b : Nat}
    (hb : b < msgOffset 0 ∨ msgOffset s.unitB.msgLen.toNat ≤ b) : t.mem.readByte b = s.mem.readByte b := by
  rcases h.mem_cases with hm | ⟨-, vs, hl, -, hm⟩
  · rw [hm]
  · rw [hm, readByte_writeEntries_outside _ _ _ _ hwf (by rwa [hl, Nat.zero_add])]

end UnitBOutcome

/-- Settles O48: every outcome a Unit B command can have keeps each of these parts. -/
theorem unitBCommandFrame : Obligations.UnitBCommandFrame := by
  intro i s t hu hwf ht
  have h := exec_b_outcome hu ht
  exact ⟨h.frame, h.operands_kept, h.res_kept, h.coefficients_kept, h.keys_kept, h.attempts_kept,
    fun he hd => ⟨h.mem_kept he hd, h.freeCount_kept he hd⟩, fun _ hb => h.readByte_outside_message hwf hb⟩

theorem exec_cfg {i : Instr} {s t : State} (h : exec i s = .next t) : t.cfg = s.cfg := by
  cases hu : i.unit with
  | a => rw [exec_a_frame hu h]
  | b => rw [(exec_b_outcome hu h).frame]

theorem runWord_cfg {u : UnitId} {w : Word} {s t : State} (h : runWord u w s = .next t) : t.cfg = s.cfg := by
  unfold runWord at h
  split at h
  · exact exec_cfg h
  · cases u <;> cases h <;> rfl

/-- A host read only answers, and may use up a free value (20_memory R68). -/
theorem hostRead_frame (off : Nat) (w : Width) (s : State) : ∃ p k, hostRead off w s = { s with port := p, freeCount := k } := by
  unfold hostRead
  split
  next tgt _ =>
    obtain ⟨k, hk⟩ := readTarget_snd tgt s
    exact ⟨_, k, by rw [hk]; rfl⟩
  next => exact ⟨_, _, rfl⟩

/-- A target is addressed by 64-bit transactions only, at the offset the map gives it. -/
theorem addressed_eq_some {c : Config} {off : Nat} {w : Width} {t : Target} (h : addressed c off w = some t) :
    w = .w64 ∧ targetAt c off = some t := by
  unfold addressed at h
  split at h
  next hw => exact ⟨hw, h⟩
  next => cases h

/-- A host write gets a bus error, or it writes a mapped target. -/
theorem hostWrite_cases (off : Nat) (w : Width) (v : Word) (s : State) :
    hostWrite off w v s = { s with port := .busError } ∨
      ∃ tgt, targetAt s.cfg off = some tgt ∧ hostWrite off w v s = answer .ack (writeTarget tgt v s) := by
  unfold hostWrite
  split
  next tgt ht =>
    split
    · exact .inr ⟨tgt, (addressed_eq_some ht).2, rfl⟩
    · exact .inl rfl
  next => exact .inl rfl

/-- What one transaction does: it only answers (and may use up a free value), or it writes a mapped target. -/
theorem transact_cases (t : Transaction) (s : State) :
    (∃ p k, transact t s = { s with port := p, freeCount := k }) ∨
      ∃ off tgt v, targetAt s.cfg off = some tgt ∧ transact t s = answer .ack (writeTarget tgt v s) := by
  cases t with
  | read addr w =>
    refine .inl ?_
    simp only [transact]
    split
    · exact hostRead_frame _ w s
    · exact ⟨_, _, rfl⟩
  | write addr w v =>
    simp only [transact]
    split
    next off _ =>
      rcases hostWrite_cases off w v s with h | ⟨tgt, ht, h⟩
      · exact .inl ⟨_, _, h⟩
      · exact .inr ⟨off, tgt, v, ht, h⟩
    next => exact .inl ⟨_, _, rfl⟩

/-- A write of a target is refused, which sets its unit's OVR, or stored, its unit being Idle unless it is a STATUS register. -/
theorem writeTarget_cases (t : Target) (v : Word) (s : State) :
    (∃ u, writeTarget t v s = refuseWrite u s) ∨
      ((t.isStatus = true ∨ ∀ u, t.owner = some u → s.busy u = false) ∧ writeTarget t v s = storeTarget t v s) := by
  unfold writeTarget
  split
  next u hu =>
    split_ifs with hb
    · exact .inl ⟨u, rfl⟩
    · refine .inr ⟨?_, rfl⟩
      rw [Classical.not_and_iff_not_or_not] at hb
      rcases hb with hb | hb
      · exact .inr fun u' hu' => by obtain rfl := Option.some.inj (hu.symm.trans hu'); simpa using hb
      · exact .inl (by simpa using hb)
  next hn => exact .inr ⟨.inr (by simp [hn]), rfl⟩

theorem storeTarget_cfg (t : Target) (v : Word) (s : State) : (storeTarget t v s).cfg = s.cfg := by
  cases t with
  | reg r => cases r <;> rfl
  | msg i => rfl

theorem writeTarget_cfg (t : Target) (v : Word) (s : State) : (writeTarget t v s).cfg = s.cfg := by
  rcases writeTarget_cases t v s with ⟨u, h⟩ | ⟨-, h⟩
  · rw [h]; cases u <;> rfl
  · rw [h, storeTarget_cfg]

theorem transact_cfg (t : Transaction) (s : State) : (transact t s).cfg = s.cfg := by
  rcases transact_cases t s with ⟨p, k, h⟩ | ⟨off, tgt, v, -, h⟩
  · rw [h]
  · rw [h, answer_cfg, writeTarget_cfg]

theorem hostTurn_cfg (s : State) : (hostTurn s).cfg = s.cfg := by
  rcases hostTurn_cases s with h | ⟨t, ops, h⟩ | ⟨u, ops, failed, h⟩
  · rw [h]
  · rw [h, transact_cfg]
  · rw [h]; exact transact_cfg _ _

/-- What one event does: the host's turn, the reset, the passing turn of an Idle unit, or the command of a Busy one. -/
theorem takeTurn_cases {turn : Turn} {s t : State} (h : takeTurn turn s = .next t) :
    t = hostTurn s ∨ t = resetBlock s ∨ (∃ r, t = { s with entropy := r }) ∨
      (∃ w, s.unitA.phase = .busy w ∧ runWord .a w s = .next t) ∨
      ∃ r w search, s.unitB.phase = .busy w search ∧ runWord .b w { s with entropy := r } = .next t := by
  cases turn with
  | host => exact .inl (Host.Outcome.next.inj h).symm
  | reset => exact .inr (.inl (Host.Outcome.next.inj h).symm)
  | unitA =>
    simp only [takeTurn, unitATurn] at h
    split at h
    next => exact .inr (.inr (.inl ⟨s.entropy, (Host.Outcome.next.inj h).symm⟩))
    next w hw => exact .inr (.inr (.inr (.inl ⟨w, hw, h⟩)))
  | unitB r =>
    simp only [takeTurn, unitBTurn] at h
    split at h
    next => exact .inr (.inr (.inl ⟨r, (Host.Outcome.next.inj h).symm⟩))
    next w search hw => exact .inr (.inr (.inr (.inr ⟨r, w, search, hw, h⟩)))

theorem takeTurn_cfg {turn : Turn} {s t : State} (h : takeTurn turn s = .next t) : t.cfg = s.cfg := by
  rcases takeTurn_cases h with rfl | rfl | ⟨r, rfl⟩ | ⟨w, -, hw⟩ | ⟨r, w, search, -, hw⟩
  · exact hostTurn_cfg s
  · rfl
  · rfl
  · exact runWord_cfg hw
  · rw [runWord_cfg hw]

theorem nextTurn_snd (s : State) : ∃ sched k, (nextTurn s).2 = { s with sched := sched, freeCount := k } := by
  unfold nextTurn
  split <;> exact ⟨_, _, rfl⟩

theorem step_cfg {s t : State} (h : step s = .next t) : t.cfg = s.cfg := by
  obtain ⟨sched, k, hs⟩ := nextTurn_snd s
  rw [takeTurn_cfg h, hs]

/-- Settles O10: no event writes the configuration, and INFO is a function of it. -/
theorem configurationNeverChanges : Obligations.ConfigurationNeverChanges := by
  intro s t h
  have hc := step_cfg h
  exact ⟨hc, congrArg infoWord hc⟩

end Sys2Proof.Machine
end

section
/-! What an accepted word and a passed trial division say: the word is the command's own (30_encoding R91 to R98), the number is prime
(41_pk_primes_keys R183). -/

namespace Sys2Proof.Machine

open Sys2Proof

/-! ### Decoding gives the encoded word back -/

theorem eq_ofNat_of_toNat_eq {n k : Nat} {v : BitVec n} (h : v.toNat = k) : v = BitVec.ofNat n k := by
  rw [← h, BitVec.ofNat_toNat, BitVec.setWidth_eq]

theorem onlySelZero_ok {opc : BitVec 8} {sel : BitVec 3} {i j : Instr} (h : onlySelZero sel j = .ok i)
    (hj : encode j = commandWord opc 0) : i = j ∧ encode i = commandWord opc sel := by
  unfold onlySelZero at h
  split at h
  next h0 => cases h; exact ⟨rfl, h0 ▸ hj⟩
  next => cases h

theorem decodePerm_ok {sel : BitVec 3} {i : Instr} (h : decodePerm sel = .ok i) :
    i.unit = .a ∧ encode i = commandWord 0x10 sel := by
  unfold decodePerm at h
  split at h <;> cases h
  all_goals
    rw [eq_ofNat_of_toNat_eq ‹sel.toNat = _›]
    exact ⟨rfl, rfl⟩

theorem decodeRotl5_ok {sel : BitVec 3} {i : Instr} (h : decodeRotl5 sel = .ok i) :
    i.unit = .a ∧ encode i = commandWord 0x11 sel := by
  unfold decodeRotl5 at h
  split at h <;> cases h
  all_goals
    rw [eq_ofNat_of_toNat_eq ‹sel.toNat = _›]
    exact ⟨rfl, rfl⟩

theorem decodeSbox_ok {sel : BitVec 3} {i : Instr} (h : decodeSbox sel = .ok i) :
    i.unit = .a ∧ encode i = commandWord 0x12 sel := by
  unfold decodeSbox at h
  split at h <;> cases h
  all_goals
    rw [eq_ofNat_of_toNat_eq ‹sel.toNat = _›]
    exact ⟨rfl, rfl⟩

theorem decodeUnitA_ok {opc : BitVec 8} {sel : BitVec 3} {i : Instr} (h : decodeUnitA opc sel = .ok i) :
    i.unit = .a ∧ encode i = commandWord opc sel := by
  unfold decodeUnitA at h
  split at h
  case h_10 => cases h
  all_goals rw [eq_ofNat_of_toNat_eq ‹opc.toNat = _›]
  case h_1 => exact decodePerm_ok h
  case h_2 => exact decodeRotl5_ok h
  case h_3 => exact decodeSbox_ok h
  all_goals
    obtain ⟨hi, he⟩ := onlySelZero_ok h rfl
    exact ⟨hi ▸ rfl, he⟩

theorem decodeUnitB_ok {opc : BitVec 8} {sel : BitVec 3} {i : Instr} (h : decodeUnitB opc sel = .ok i) :
    i.unit = .b ∧ encode i = commandWord opc sel := by
  unfold decodeUnitB at h
  split at h
  case h_11 => cases h
  all_goals
    rw [eq_ofNat_of_toNat_eq ‹opc.toNat = _›]
    obtain ⟨hi, he⟩ := onlySelZero_ok h rfl
    exact ⟨hi ▸ rfl, he⟩

/-- A word with RSV = 0 is made of its OPC and SEL (30_encoding R90). -/
theorem commandWord_fields {w : Word} (h : rsvField w = 0) : commandWord (opcField w) (selField w) = w := by
  unfold commandWord
  rw [← h, rsvField, selField, opcField, BitVec.extractLsb'_append_extractLsb'_eq_extractLsb' (by rfl : 11 = 8 + 3),
    BitVec.extractLsb'_append_extractLsb'_eq_extractLsb' (by rfl : 8 = 0 + 8)]
  exact BitVec.extractLsb'_eq_self

/-- A word decodes to a command only in the command's unit, and only the word that encodes it (30_encoding R91 to R98). -/
theorem decode_ok {u : UnitId} {w : Word} {i : Instr} (h : decode u w = .ok i) : i.unit = u ∧ encode i = w := by
  unfold decode at h
  split at h
  next => cases h
  next hr =>
    rw [← commandWord_fields (not_not.mp hr)]
    cases u with
    | a => exact decodeUnitA_ok h
    | b => exact decodeUnitB_ok h

/-! ### Trial division -/

/-- Trial division up to the root says prime of primes only (41_pk_primes_keys R183). -/
theorem prime_of_isPrime {n : Nat} (h : isPrime n = true) : Nat.Prime n := by
  simp only [isPrime, Bool.and_eq_true, decide_eq_true_eq, List.all_eq_true, List.mem_range', bne_iff_ne, isqrt_eq_sqrt] at h
  obtain ⟨h1, hall⟩ := h
  refine Nat.prime_def_le_sqrt.mpr ⟨h1, fun m hm hs hd => ?_⟩
  exact hall m ⟨m - 2, by omega, by omega⟩ (Nat.mod_eq_zero_of_dvd hd)

end Sys2Proof.Machine
end

section
/-! The parts of the block's invariant (10_state R24, R31, R50; 20_memory R67) and that every event keeps each of them. -/

namespace Sys2Proof.Machine

open Sys2Proof

/-! ### The parts -/

/-- The message buffer's part of the invariant. -/
structure BufferInv (c : Config) (m : Memory) : Prop where
  canonical : m.wf
  inBuffer : ∀ x ∈ m, msgOffset 0 ≤ x.1 ∧ x.1 < msgOffset c.msgDepth
  wholeEntries : ∀ i j, j < 8 → (m.readByte (msgOffset i + j)).isSome = (m.readByte (msgOffset i)).isSome

/-- The used widths of Unit A's result registers (10_state R28 to R30). -/
def FitsA (a : UnitA) : Prop := a.res.toNat < 2 ^ 10 ∧ a.k1.toNat < 2 ^ 8 ∧ a.k2.toNat < 2 ^ 8

/-- Unit A's part of the invariant. -/
structure UnitAInv (a : UnitA) : Prop where
  status : a.busy = true → a.status.done = false ∧ a.status.err = none
  latch : ∀ w, a.phase = .busy w → a.cmd = w
  widths : FitsA a

/-- The used widths of B_RES, B_P, B_Q and B_PHI (10_state section 2). -/
def FitsB (c : Config) (b : UnitB) : Prop :=
  b.res.toNat < 2 ^ c.pkWidth ∧ b.p.toNat < 2 ^ c.pkWidth ∧ b.q.toNat < 2 ^ c.pkWidth ∧ b.phi.toNat < 2 ^ c.pkWidth

/-- Unit B's part of the invariant. -/
structure UnitBInv (c : Config) (b : UnitB) : Prop where
  status : b.busy = true → b.status.done = false ∧ b.status.err = none
  latch : ∀ w search, b.phase = .busy w search → b.cmd = w
  widths : FitsB c b
  search : SearchOk { State.reset with cfg := c, unitB := b }

theorem engineInv_iff (s : State) :
    EngineInv s ↔ s.cfg.WF ∧ BufferInv s.cfg s.mem ∧ UnitAInv s.unitA ∧ UnitBInv s.cfg s.unitB :=
  ⟨fun h => ⟨h.config, ⟨h.canonical, h.inBuffer, h.wholeEntries⟩, ⟨h.statusA, h.latchA, h.widthsA⟩,
      ⟨h.statusB, h.latchB, h.widthsB, h.search⟩⟩,
    fun ⟨hc, hm, ha, hb⟩ => ⟨hc, hm.canonical, hm.inBuffer, hm.wholeEntries, ha.status, hb.status, ha.latch, hb.latch,
      ha.widths, hb.widths, hb.search⟩⟩

/-- Only the block's own fields matter: the turns, the host, its port and the free values are outside it. -/
theorem EngineInv.of_block_eq {s t : State} (h : EngineInv s) (hc : t.cfg = s.cfg) (hm : t.mem = s.mem)
    (ha : t.unitA = s.unitA) (hb : t.unitB = s.unitB) : EngineInv t := by
  rw [engineInv_iff, hc, hm, ha, hb]
  exact (engineInv_iff s).mp h

/-! ### The message buffer -/

theorem bufferInv_nil (c : Config) : BufferInv c [] := ⟨List.Pairwise.nil, by simp, fun _ _ _ => rfl⟩

theorem mem_writeBytes {m : Memory} {a k : Nat} {v : Word} {x : Host.Cell} (h : x ∈ m.writeBytes a v k) :
    (a ≤ x.1 ∧ x.1 < a + k) ∨ x ∈ m := by
  induction k with
  | zero => exact .inr h
  | succ k ih =>
    rcases mem_writeByte h with rfl | h
    · exact .inl ⟨Nat.le_add_right _ _, Nat.lt_succ_self _⟩
    · exact (ih h).imp_left fun ⟨h1, h2⟩ => ⟨h1, h2.trans (Nat.lt_succ_self _)⟩

theorem BufferInv.writeWord {c : Config} {m : Memory} (h : BufferInv c m) {i : Nat} (hi : i < c.msgDepth) (v : Word) :
    BufferInv c (m.writeWord (msgOffset i) v) where
  canonical := writeWord_wf m _ v h.canonical
  inBuffer x hx := by
    rcases mem_writeBytes hx with hx | hx
    · unfold msgOffset at *; omega
    · exact h.inBuffer x hx
  wholeEntries k j hj := by
    rw [readByte_writeWord m _ _ v h.canonical, readByte_writeWord m _ _ v h.canonical]
    by_cases hk : k = i
    · rw [if_pos (by subst hk; omega), if_pos (by subst hk; omega)]; rfl
    · rw [if_neg (by unfold msgOffset; omega), if_neg (by unfold msgOffset; omega)]
      exact h.wholeEntries k j hj

theorem BufferInv.writeEntries {c : Config} {m : Memory} (h : BufferInv c m) {start : Nat} {vs : List Word}
    (hd : start + vs.length ≤ c.msgDepth) : BufferInv c (m.writeEntries start vs) := by
  induction vs generalizing m start with
  | nil => exact h
  | cons v rest ih =>
    rw [List.length_cons] at hd
    exact ih (h.writeWord (by omega) v) (by omega)

/-! ### Unit A -/

theorem UnitAInv.of_idle {a : UnitA} (hp : a.phase = .idle) (hw : FitsA a) : UnitAInv a where
  status hb := by simp [UnitA.busy, hp] at hb
  latch w h := by simp [hp] at h
  widths := hw

theorem zext_lt {n k : Nat} (v : BitVec n) (hn : n ≤ k) (hk : k ≤ 64) : (zext v).toNat < 2 ^ k := by
  rw [toNat_zext v (hn.trans hk)]
  exact v.isLt.trans_le (Nat.pow_le_pow_right (by decide) hn)

theorem FitsA.with_res {a : UnitA} (h : FitsA a) {m : Nat} (hm : m ≤ 10) (v : BitVec m) : FitsA { a with res := zext v } :=
  ⟨zext_lt v hm (by decide), h.2⟩

theorem FitsA.with_subkeys {a : UnitA} (h : FitsA a) (v w : BitVec 8) : FitsA { a with k1 := zext v, k2 := zext w } :=
  ⟨h.1, zext_lt v le_rfl (by decide), zext_lt w le_rfl (by decide)⟩

/-- Unit A's part of the invariant holds in the next state, if there is one. -/
def LeavesA (r : Result) : Prop := ∀ t, r = .next t → UnitAInv t.unitA

theorem leavesA_raiseError {s : State} (h : FitsA s.unitA) (c : ErrCode) : LeavesA (raiseError .a c s) := by
  intro t ht; cases ht; exact .of_idle rfl h

theorem leavesA_require {p : Prop} [Decidable p] {c : ErrCode} {s : State} {go : Result} (h : FitsA s.unitA) (hgo : LeavesA go) :
    LeavesA (require p .a c s go) := by
  rcases require_cases p .a c s go with ⟨-, e⟩ | ⟨-, e⟩ <;> rw [e]
  · exact hgo
  · exact leavesA_raiseError h c

theorem leavesA_completeA {f : UnitA → UnitA} {s : State} (h : FitsA (f s.unitA)) : LeavesA (completeA f s) := by
  intro t ht; cases ht; exact .of_idle rfl h

theorem exec_leavesA {i : Instr} {s : State} (hu : i.unit = .a) (h : FitsA s.unitA) : LeavesA (exec i s) := by
  cases i with
  | permP10 | permP8 | permIP | permFP | permEP | permP4 | rotl5_0 | rotl5_1 | rotl5_2 | rotl5_3 | rotl5_4 | sboxS0 | sboxS1
  | swap => exact leavesA_require h (leavesA_completeA (h.with_res (by decide) _))
  | feistel | fk | encrypt | decrypt =>
    exact leavesA_require h (leavesA_require h (leavesA_completeA (h.with_res (by decide) _)))
  | subkeys => exact leavesA_require h (leavesA_completeA (h.with_subkeys _ _))
  | isprime | gencand | genprime | gcd | egcd | modinv | modexp | keygen | encmsg | decmsg => cases hu

theorem runWord_leavesA {w : Word} {s : State} (h : FitsA s.unitA) : LeavesA (runWord .a w s) := by
  unfold runWord
  split
  next i hi => exact exec_leavesA (decode_ok hi).1 h
  next => exact leavesA_raiseError h _

/-! ### Unit B -/

theorem UnitBInv.of_idle {c : Config} {b : UnitB} (hp : b.phase = .idle) (hw : FitsB c b) : UnitBInv c b where
  status hb := by simp [UnitB.busy, hp] at hb
  latch w search h := by simp [hp] at h
  widths := hw
  search := by simp [SearchOk, hp]

theorem unitBInv_reset (c : Config) : UnitBInv c UnitB.reset :=
  .of_idle rfl ⟨by simp [UnitB.reset], by simp [UnitB.reset], by simp [UnitB.reset], by simp [UnitB.reset]⟩

/-- Unit B's part of the invariant holds in the next state, if there is one. -/
def LeavesB (r : Result) : Prop := ∀ t, r = .next t → UnitBInv t.cfg t.unitB

theorem leavesB_raiseError {s : State} (h : FitsB s.cfg s.unitB) (c : ErrCode) : LeavesB (raiseError .b c s) := by
  intro t ht; cases ht; exact .of_idle rfl h

theorem leavesB_require {p : Prop} [Decidable p] {c : ErrCode} {s : State} {go : Result} (h : FitsB s.cfg s.unitB)
    (hgo : p → LeavesB go) : LeavesB (require p .b c s go) := by
  rcases require_cases p .b c s go with ⟨hp, e⟩ | ⟨-, e⟩ <;> rw [e]
  · exact hgo hp
  · exact leavesB_raiseError h c

theorem leavesB_completeB {f : UnitB → UnitB} {s : State} (h : FitsB s.cfg (f s.unitB)) : LeavesB (completeB f s) := by
  intro t ht; cases ht; exact .of_idle rfl h

/-- A failed attempt keeps the rest of the unit, so only the new search has to be one of the command. -/
theorem leavesB_stayBusy {search search' : Search} {w : Word} {s : State} (h : UnitBInv s.cfg s.unitB)
    (hp : s.unitB.phase = .busy w search) (hs : SearchOk { s with unitB := { s.unitB with phase := .busy w search' } }) :
    LeavesB (stayBusy search' s) := by
  have hl : s.unitB.latched = w := by simp [UnitB.latched, hp]
  intro t ht
  rw [stayBusy_eq, hl] at ht
  cases ht
  exact ⟨fun _ => h.status (by simp [UnitB.busy, hp]), fun _ _ e => by cases e; exact h.latch w search hp, h.widths, hs⟩

theorem reg64_lt {n k : Nat} (h : n < 2 ^ k) : (reg64 n).toNat < 2 ^ k :=
  (Nat.mod_le n _).trans_lt h

theorem FitsB.with_resultB {c : Config} {b : UnitB} (h : FitsB c b) {n : Nat} (hn : n < 2 ^ c.pkWidth) : FitsB c (resultB n b) :=
  ⟨reg64_lt hn, h.2⟩

theorem gcd_lt_of_lt {a b n : Nat} (ha : a < n) (hb : b < n) : Nat.gcd a b < n := by
  rcases Nat.eq_zero_or_pos a with rfl | h
  · rwa [Nat.gcd_zero_left]
  · exact (Nat.gcd_le_left b h).trans_lt ha

/-- The candidate of an attempt with a bit length in range has that many bits and is odd (41_pk_primes_keys R185). -/
theorem attemptCandidate_bounds {s : State} (h1 : 1 ≤ bitLength s) (h64 : bitLength s ≤ 64) :
    2 ^ (bitLength s - 1) ≤ attemptCandidate s ∧ attemptCandidate s < 2 ^ bitLength s ∧ attemptCandidate s % 2 = 1 :=
  candidateOf_bounds (candidate_candidateOf _ s.entropy h1 h64)

theorem lt_two_pow_of_le {n l k : Nat} (h : n < 2 ^ l) (hl : l ≤ k) : n < 2 ^ k :=
  h.trans_le (Nat.pow_le_pow_right (by decide) hl)

/-- One more attempt for a prime stays below the limit when it has not reached it (41_pk_primes_keys R188). -/
theorem attempts_succ_lt {c : Config} {n : Nat} (h : c.attemptLimit ≠ 0 → n < c.attemptLimit) (hn : ¬LimitReached c (n + 1)) :
    c.attemptLimit ≠ 0 → n + 1 < c.attemptLimit :=
  fun h0 => lt_of_le_of_ne (h h0) fun e => hn ⟨h0, e⟩

theorem derive_phi {w p q : Nat} {k : Nat × Nat × Nat × Nat} (h : derive w p q = some k) : k.2.1 = (p - 1) * (q - 1) := by
  obtain ⟨e, -, rfl⟩ := Option.map_eq_some_iff.mp h
  rfl

/-- The registers KEYGEN writes from primes of at most half the width fit the width (41_pk_primes_keys R197). -/
theorem finishKeygen_leavesB {s : State} {p q l total : Nat} (hw : FitsB s.cfg s.unitB) (hl : l ≤ s.cfg.pkWidth / 2)
    (hp : p < 2 ^ l) (hq : q < 2 ^ l) : LeavesB (finishKeygen p q total s) := by
  have hphi : (p - 1) * (q - 1) < 2 ^ s.cfg.pkWidth := by
    calc (p - 1) * (q - 1) < 2 ^ l * 2 ^ l := Nat.mul_lt_mul'' (by omega) (by omega)
      _ = 2 ^ (l + l) := (pow_add 2 l l).symm
      _ ≤ 2 ^ s.cfg.pkWidth := Nat.pow_le_pow_right (by decide) (by omega)
  unfold finishKeygen
  split
  next k hk =>
    refine leavesB_completeB ⟨hw.1, reg64_lt (lt_two_pow_of_le hp (by omega)), reg64_lt (lt_two_pow_of_le hq (by omega)), ?_⟩
    exact reg64_lt ((derive_phi hk).trans_lt hphi)
  next => exact leavesB_raiseError (s := s.mapB (setAttempts _)) hw _

theorem transformMessage_leavesB {s : State} (hw : FitsB s.cfg s.unitB) (x : Word) : LeavesB (transformMessage x s) := by
  intro t ht
  rcases transformMessage_cases x s with ⟨k, c, -, e⟩ | ⟨k, vs, -, -, e⟩ <;>
  · cases ht.symm.trans e
    exact .of_idle rfl hw

section Commands

variable {s : State} (hc : s.cfg.ParamsOk) (hb : UnitBInv s.cfg s.unitB)
include hc hb

theorem genprimeAttempt_leavesB {before : Nat} {search : Search} (hp : s.unitB.phase = .busy (encode .genprime) search)
    (hl : 1 ≤ bitLength s ∧ bitLength s ≤ s.cfg.pkWidth) (hlim : s.cfg.attemptLimit ≠ 0 → before < s.cfg.attemptLimit) :
    LeavesB (genprimeAttempt before s) := by
  obtain ⟨⟨-, -, h64⟩, -⟩ := hc
  obtain ⟨-, hlt, -⟩ := attemptCandidate_bounds hl.1 (hl.2.trans h64)
  unfold genprimeAttempt
  split_ifs with _ hr
  · exact leavesB_completeB (hb.widths.with_resultB (lt_two_pow_of_le hlt hl.2))
  · exact leavesB_raiseError (s := s.mapB (setAttempts _)) hb.widths _
  · exact leavesB_stayBusy hb hp ⟨rfl, hl.1, hl.2, Nat.succ_pos _, attempts_succ_lt hlim hr⟩

theorem execGenprime_leavesB {search : Search} (hp : s.unitB.phase = .busy (encode .genprime) search) :
    LeavesB (execGenprime s) := by
  have hs := hb.search
  unfold execGenprime
  split
  next w before hph =>
    simp only [SearchOk, hph] at hs
    obtain ⟨-, h1, hl, -, hlim⟩ := hs
    exact genprimeAttempt_leavesB hc hb hp ⟨h1, hl⟩ hlim
  next => exact leavesB_require hb.widths fun hl => genprimeAttempt_leavesB hc hb hp hl Nat.pos_of_ne_zero

theorem keygenAttemptP_leavesB {before : Nat} {search : Search} (hp : s.unitB.phase = .busy (encode .keygen) search)
    (hl : 1 ≤ bitLength s ∧ bitLength s ≤ s.cfg.pkWidth / 2) (hlim : s.cfg.attemptLimit ≠ 0 → before < s.cfg.attemptLimit) :
    LeavesB (keygenAttemptP before before s) := by
  obtain ⟨⟨-, -, h64⟩, -⟩ := hc
  obtain ⟨hge, hlt, hodd⟩ := attemptCandidate_bounds hl.1 (by omega)
  unfold keygenAttemptP
  split_ifs with hprime hr
  · exact leavesB_stayBusy hb hp
      ⟨rfl, hl.1, hl.2, prime_of_isPrime hprime, hge, hlt, hodd, Nat.succ_pos _, Nat.pos_of_ne_zero⟩
  · exact leavesB_raiseError (s := s.mapB (setAttempts _)) hb.widths _
  · exact leavesB_stayBusy hb hp ⟨rfl, hl.1, hl.2, Nat.succ_pos _, rfl, attempts_succ_lt hlim hr⟩

theorem keygenAttemptQ_leavesB {p before total : Nat} (hp : s.unitB.phase = .busy (encode .keygen) (.keyQ p before total)) :
    LeavesB (keygenAttemptQ p before total s) := by
  have hs := hb.search
  simp only [SearchOk, hp] at hs
  obtain ⟨-, h1, hl, hprime, hge, hlt, hodd, htotal, hlim⟩ := hs
  have ⟨⟨_, _, h64⟩, _⟩ := hc
  obtain ⟨-, hqlt, -⟩ := attemptCandidate_bounds (s := s) h1 (hl.trans (by omega))
  unfold keygenAttemptQ
  split_ifs with _ hr
  · exact finishKeygen_leavesB hb.widths hl hlt hqlt
  · exact leavesB_raiseError (s := s.mapB (setAttempts _)) hb.widths _
  · exact leavesB_stayBusy hb hp ⟨rfl, h1, hl, hprime, hge, hlt, hodd, Nat.succ_lt_succ htotal, attempts_succ_lt hlim hr⟩

theorem execKeygen_leavesB {search : Search} (hp : s.unitB.phase = .busy (encode .keygen) search) :
    LeavesB (execKeygen s) := by
  have hs := hb.search
  unfold execKeygen
  split
  next w before total hph =>
    simp only [SearchOk, hph] at hs
    obtain ⟨-, h1, hl, -, rfl, hlim⟩ := hs
    exact keygenAttemptP_leavesB hc hb hp ⟨h1, hl⟩ hlim
  next w p before total hph =>
    obtain ⟨rfl, -⟩ := PhaseB.busy.inj (hp.symm.trans hph)
    exact keygenAttemptQ_leavesB hc hb hph
  next => exact leavesB_require hb.widths fun hl => keygenAttemptP_leavesB hc hb hp hl Nat.pos_of_ne_zero

/-- Every command of Unit B, run from its latched word, leaves results of the used widths and a search of its own. -/
theorem exec_leavesB {i : Instr} {search : Search} (hu : i.unit = .b) (hp : s.unitB.phase = .busy (encode i) search) :
    LeavesB (exec i s) := by
  have hw := hb.widths
  have ⟨⟨_, h18, h64⟩, _⟩ := hc
  cases i with
  | isprime =>
    refine leavesB_require hw fun _ => leavesB_completeB (hw.with_resultB (Nat.lt_of_le_of_lt (m := 1) (by split <;> decide) ?_))
    exact Nat.one_lt_two_pow (by omega)
  | gencand =>
    refine leavesB_require hw fun hl => leavesB_completeB (hw.with_resultB ?_)
    exact lt_two_pow_of_le (attemptCandidate_bounds hl.1 (hl.2.trans h64)).2.1 hl.2
  | genprime => exact execGenprime_leavesB hc hb hp
  | gcd =>
    exact leavesB_require hw fun hx => leavesB_require hw fun hy => leavesB_completeB (hw.with_resultB (gcd_lt_of_lt hx hy))
  | egcd =>
    refine leavesB_require hw fun hx => leavesB_require hw fun hy => leavesB_completeB ⟨reg64_lt ?_, hw.2⟩
    rw [(egcd_spec _ _).1]
    exact gcd_lt_of_lt hx hy
  | modinv =>
    exact leavesB_require hw fun _ => leavesB_require hw fun hy => leavesB_require hw fun h2 => leavesB_require hw fun hg =>
      leavesB_completeB (hw.with_resultB ((modinv_spec _ _ h2 hg).1.trans hy))
  | modexp =>
    refine leavesB_require hw fun _ => leavesB_require hw fun _ => leavesB_require hw fun hm => leavesB_require hw fun h0 =>
      leavesB_completeB (hw.with_resultB ?_)
    rw [modexp_eq]
    exact (Nat.mod_lt _ (Nat.pos_of_ne_zero h0)).trans hm
  | keygen => exact execKeygen_leavesB hc hb hp
  | encmsg => exact transformMessage_leavesB hw s.unitB.e
  | decmsg => exact transformMessage_leavesB hw s.unitB.d
  | permP10 | permP8 | permIP | permFP | permEP | permP4 | rotl5_0 | rotl5_1 | rotl5_2 | rotl5_3 | rotl5_4 | sboxS0 | sboxS1
  | swap | feistel | fk | subkeys | encrypt | decrypt => cases hu

theorem runWord_leavesB {w : Word} {search : Search} (hp : s.unitB.phase = .busy w search) : LeavesB (runWord .b w s) := by
  unfold runWord
  split
  next i hi =>
    obtain ⟨hu, rfl⟩ := decode_ok hi
    exact exec_leavesB hc hb hu hp
  next => exact leavesB_raiseError hb.widths _

end Commands

/-! ### The events -/

theorem UnitAInv.accept {a : UnitA} (h : UnitAInv a) (w : Word) : UnitAInv (a.accept w) :=
  ⟨fun _ => ⟨rfl, rfl⟩, fun _ e => PhaseA.busy.inj e, h.widths⟩

theorem UnitBInv.accept {c : Config} {b : UnitB} (h : UnitBInv c b) (w : Word) : UnitBInv c (b.accept w) :=
  ⟨fun _ => ⟨rfl, rfl⟩, fun _ _ e => (PhaseB.busy.inj e).1, h.widths, trivial⟩

/-- A STATUS that differs in OVR alone serves as well. -/
theorem UnitAInv.with_status {a : UnitA} (h : UnitAInv a) {st : Status} (hd : st.done = a.status.done)
    (he : st.err = a.status.err) : UnitAInv { a with status := st } :=
  ⟨fun hb => ⟨hd.trans (h.status hb).1, he.trans (h.status hb).2⟩, h.latch, h.widths⟩

theorem UnitBInv.with_status {c : Config} {b : UnitB} (h : UnitBInv c b) {st : Status} (hd : st.done = b.status.done)
    (he : st.err = b.status.err) : UnitBInv c { b with status := st } :=
  ⟨fun hb => ⟨hd.trans (h.status hb).1, he.trans (h.status hb).2⟩, h.latch, h.widths, h.search⟩

theorem refuseWrite_inv {s : State} (h : EngineInv s) (u : UnitId) : EngineInv (refuseWrite u s) := by
  obtain ⟨hc, hm, ha, hb⟩ := (engineInv_iff s).mp h
  refine (engineInv_iff _).mpr ?_
  cases u with
  | a => exact ⟨hc, hm, ha.with_status rfl rfl, hb⟩
  | b => exact ⟨hc, hm, ha, hb.with_status rfl rfl⟩

/-- A stored write keeps the invariant; B_L, which a search reads, is stored only while Unit B is Idle (20_memory R69). -/
theorem writeReg_inv {s : State} (h : EngineInv s) {r : Reg} (hr : r = .bL → s.unitB.busy = false) (v : Word) :
    EngineInv (writeReg r v s) := by
  obtain ⟨hc, hm, ha, hb⟩ := (engineInv_iff s).mp h
  cases r with
  | aRes | aK1 | aK2 | bRes | bRes2 | bRes3 | bP | bQ | bPhi | bAttempts | info => exact h
  | aCmd => exact (engineInv_iff _).mpr ⟨hc, hm, ha.accept v, hb⟩
  | aStatus => exact (engineInv_iff _).mpr ⟨hc, hm, ha.with_status (by simp) (by simp), hb⟩
  | aKey | aSrc | aSubkey => exact (engineInv_iff _).mpr ⟨hc, hm, ⟨ha.status, ha.latch, ha.widths⟩, hb⟩
  | bCmd => exact (engineInv_iff _).mpr ⟨hc, hm, ha, hb.accept v⟩
  | bStatus => exact (engineInv_iff _).mpr ⟨hc, hm, ha, hb.with_status (by simp) (by simp)⟩
  | bX | bY | bM | bMsgLen | bN | bE | bD =>
    exact (engineInv_iff _).mpr ⟨hc, hm, ha, ⟨hb.status, hb.latch, hb.widths, hb.search⟩⟩
  | bL =>
    have hp : s.unitB.phase = .idle := by
      cases hp : s.unitB.phase with
      | idle => rfl
      | busy w search => simp [UnitB.busy, hp] at hr
    exact (engineInv_iff _).mpr ⟨hc, hm, ha, .of_idle hp hb.widths⟩

theorem writeTarget_inv {s : State} (h : EngineInv s) {t : Target} (ht : ∀ i, t = .msg i → i < s.cfg.msgDepth) (v : Word) :
    EngineInv (writeTarget t v s) := by
  rcases writeTarget_cases t v s with ⟨u, e⟩ | ⟨hidle, e⟩ <;> rw [e]
  · exact refuseWrite_inv h u
  cases t with
  | reg r =>
    refine writeReg_inv h (fun hr => ?_) v
    subst hr
    exact hidle.resolve_left (by decide) .b rfl
  | msg i =>
    obtain ⟨hc, hm, ha, hb⟩ := (engineInv_iff s).mp h
    exact (engineInv_iff _).mpr ⟨hc, hm.writeWord (ht i rfl) v, ha, hb⟩

/-- Only entries that exist are mapped (10_state R41, 20_memory R61). -/
theorem lt_msgDepth_of_targetAt {c : Config} {off i : Nat} (h : targetAt c off = some (.msg i)) : i < c.msgDepth := by
  unfold targetAt at h
  split at h
  next => cases h
  next =>
    split_ifs at h with hi
    cases h
    exact hi.2.2

theorem transact_inv {s : State} (h : EngineInv s) (t : Transaction) : EngineInv (transact t s) := by
  rcases transact_cases t s with ⟨p, k, e⟩ | ⟨off, tgt, v, ht, e⟩ <;> rw [e]
  · exact h.of_block_eq rfl rfl rfl rfl
  · exact (writeTarget_inv h (fun i hi => lt_msgDepth_of_targetAt (hi ▸ ht)) v).of_block_eq rfl rfl rfl rfl

theorem hostTurn_inv {s : State} (h : EngineInv s) : EngineInv (hostTurn s) := by
  rcases hostTurn_cases s with e | ⟨t, ops, e⟩ | ⟨u, ops, failed, e⟩ <;> rw [e]
  · exact h
  · exact transact_inv (s := { s with host := ops }) (h.of_block_eq rfl rfl rfl rfl) t
  · exact (transact_inv h _).of_block_eq rfl rfl rfl rfl

theorem unitAInv_reset : UnitAInv UnitA.reset :=
  .of_idle rfl ⟨by decide, by decide, by decide⟩

theorem resetBlock_inv {s : State} (h : EngineInv s) : EngineInv (resetBlock s) :=
  (engineInv_iff _).mpr ⟨h.config, bufferInv_nil _, unitAInv_reset, unitBInv_reset _⟩

theorem runWord_a_frame {w : Word} {s t : State} (h : runWord .a w s = .next t) : t = { s with unitA := t.unitA } := by
  unfold runWord at h
  split at h
  next i hi => exact exec_a_frame (decode_ok hi).1 h
  next => cases h; rfl

/-- A turn of Unit B leaves Unit A, and of the buffer all but the first entries, as many as B_MSGLEN says, if they exist. -/
theorem runWord_b_frame {w : Word} {s t : State} (h : runWord .b w s = .next t) :
    t.unitA = s.unitA ∧ (t.mem = s.mem ∨ ∃ vs : List Word, vs.length ≤ s.cfg.msgDepth ∧ t.mem = s.mem.writeEntries 0 vs) := by
  unfold runWord at h
  split at h
  next i hi =>
    have ho := exec_b_outcome (decode_ok hi).1 h
    refine ⟨by rw [ho.frame], ho.mem_cases.imp_right ?_⟩
    rintro ⟨-, vs, hl, hd, e⟩
    exact ⟨vs, hl.trans_le hd, e⟩
  next => cases h; exact ⟨rfl, .inl rfl⟩

theorem unitACommand_inv {s t : State} {w : Word} (h : EngineInv s) (ht : runWord .a w s = .next t) : EngineInv t := by
  obtain ⟨hc, hm, ha, hb⟩ := (engineInv_iff s).mp h
  have hf := runWord_a_frame ht
  refine (engineInv_iff t).mpr ⟨?_, ?_, runWord_leavesA ha.widths t ht, ?_⟩ <;> rw [hf] <;> assumption

theorem unitBCommand_inv {s t : State} {w : Word} {search : Search} (h : EngineInv s) (hp : s.unitB.phase = .busy w search)
    (ht : runWord .b w s = .next t) : EngineInv t := by
  obtain ⟨hc, hm, ha, hb⟩ := (engineInv_iff s).mp h
  obtain ⟨hA, hmem⟩ := runWord_b_frame ht
  have hcfg := runWord_cfg ht
  refine (engineInv_iff t).mpr ⟨hcfg ▸ hc, ?_, hA ▸ ha, runWord_leavesB hc.1 hb hp t ht⟩
  rw [hcfg]
  rcases hmem with e | ⟨vs, hl, e⟩ <;> rw [e]
  · exact hm
  · exact hm.writeEntries (by omega)

theorem takeTurn_inv {turn : Turn} {s t : State} (h : EngineInv s) (ht : takeTurn turn s = .next t) : EngineInv t := by
  rcases takeTurn_cases ht with rfl | rfl | ⟨r, rfl⟩ | ⟨w, -, hw⟩ | ⟨r, w, search, hp, hw⟩
  · exact hostTurn_inv h
  · exact resetBlock_inv h
  · exact h.of_block_eq rfl rfl rfl rfl
  · exact unitACommand_inv h hw
  · exact unitBCommand_inv (s := { s with entropy := r }) (h.of_block_eq rfl rfl rfl rfl) hp hw

/-- Settles O15: the turn list and the free values are outside the block, and every event keeps each part of the invariant. -/
theorem everyStepKeepsTheInvariant : Obligations.EveryStepKeepsTheInvariant := by
  intro s t h ht
  obtain ⟨sched, k, hs⟩ := nextTurn_snd s
  refine takeTurn_inv ?_ ht
  rw [hs]
  exact h.of_block_eq rfl rfl rfl rfl

end Sys2Proof.Machine
end

section
/-! The host port on the registers and the message buffer: bus errors, accepted writes and what reads back, and the words STATUS and INFO
(10_state R21 to R33, R41; 20_memory R60 to R71). -/

namespace Sys2Proof.Machine

open Sys2Proof

/-! ### Transactions -/

theorem transact_read_busError {s : State} {off : Nat} {w : Width} (ho : off < 4096) (h : addressed s.cfg off w = none) :
    transact (.read (s.cfg.engineBase + off) w) s = { s with port := .busError } := by
  simp only [transact, windowOffset_base _ _ ho, hostRead, h]
  rfl

theorem transact_write_busError {s : State} {off : Nat} {w : Width} {v : Word} (ho : off < 4096)
    (h : ∀ t, addressed s.cfg off w = some t → t.writable = false) :
    transact (.write (s.cfg.engineBase + off) w v) s = { s with port := .busError } := by
  simp only [transact, windowOffset_base _ _ ho, hostWrite]
  split
  next t ht => rw [h t ht]; rfl
  next => rfl

/-- Settles O49: such a transaction addresses no target, or one that takes no write. -/
theorem busErrorChangesNothing : Obligations.BusErrorChangesNothing := by
  intro s off w v ho
  refine ⟨fun h => ?_, fun ⟨r, hro, hr⟩ => ?_⟩
  · have hnone : addressed s.cfg off w = none := by
      refine Option.eq_none_iff_forall_ne_some.mpr fun t ht => ?_
      obtain ⟨hw, htarget⟩ := addressed_eq_some ht
      rw [targetAt_none _ _ (h.resolve_left (not_not.mpr hw))] at htarget
      cases htarget
    exact ⟨transact_read_busError ho hnone, transact_write_busError ho (by simp [hnone])⟩
  · refine transact_write_busError ho fun t ht => ?_
    have ht := (addressed_eq_some ht).2
    rw [← hr, targetAt_reg] at ht
    cases ht
    simp [Target.writable, hro]

/-- A write of a target that takes writes, whose unit is Idle unless it is a STATUS register, is stored and acknowledged. -/
theorem transact_write_stored {s : State} {off : Nat} {t : Target} {v : Word} (ho : off < 4096)
    (ht : targetAt s.cfg off = some t) (hw : t.writable = true)
    (hidle : t.isStatus = true ∨ ∀ u, t.owner = some u → s.busy u = false) :
    transact (.write (s.cfg.engineBase + off) .w64 v) s = { storeTarget t v s with port := .ack } := by
  have hstore : writeTarget t v s = storeTarget t v s := by
    unfold writeTarget
    split
    next u hu =>
      rw [if_neg]
      rintro ⟨hb, hs⟩
      rcases hidle with h | h
      · rw [h] at hs; cases hs
      · rw [h u hu] at hb; cases hb
    next => rfl
  rw [transact_write s off t v ho ht, if_pos hw, hstore]
  rfl

theorem transact_write_reg {s : State} {r : Reg} {v : Word} (hw : r.access ≠ .ro)
    (hidle : r.access = .status ∨ ∀ u, r.owner = some u → s.busy u = false) :
    transact (.write (s.cfg.engineBase + r.offset) .w64 v) s = { writeReg r v s with port := .ack } :=
  transact_write_stored (offset_lt r) (targetAt_reg _ r) (by simpa [Target.writable] using hw)
    (hidle.imp_left fun h => by simp [Target.isStatus, h])

/-- A read of a register that is not a result, or has no Busy owner, returns the value held (20_memory R70). -/
theorem transact_read_reg {s : State} {r : Reg} (h : r.access ≠ .ro ∨ ∀ u, r.owner = some u → s.busy u = false) :
    transact (.read (s.cfg.engineBase + r.offset) .w64) s = { s with port := .data (regValue r s) } := by
  have hnot : ¬(r.access = .ro ∧ ownerBusy (.reg r) s = true) := by
    rintro ⟨hro, hb⟩
    unfold ownerBusy at hb
    split at hb
    next u hu => rw [(h.resolve_left (not_not.mpr hro)) u hu] at hb; cases hb
    next => cases hb
  rw [transact_read s _ _ (offset_lt r) (targetAt_reg _ r), readTarget, if_neg hnot]
  rfl

/-- Settles O51: the write reaches the CMD register of an Idle unit, which latches it. -/
theorem commandWriteIsAccepted : Obligations.CommandWriteIsAccepted := by
  refine fun s w => ⟨fun hp => ?_, fun hp => ?_⟩
  · exact transact_write_reg (r := .aCmd) (by decide)
      (.inr fun u hu => by cases hu; exact unitA_busy_idle _ hp)
  · exact transact_write_reg (r := .bCmd) (by decide)
      (.inr fun u hu => by cases hu; exact unitB_busy_idle _ hp)

theorem hostWrite_eq (v : Word) (st : Status) : st.hostWrite v = { st with ovr := st.ovr && !v.getLsbD 3 } := by
  rw [← Status.hostWrite_ovr, ← Status.hostWrite_done v st, ← Status.hostWrite_err v st]

/-- Settles O53: a STATUS write is stored whatever the phase, and what it stores is OVR cleared by bit 3. -/
theorem statusWriteClearsOnlyOvr : Obligations.StatusWriteClearsOnlyOvr := by
  refine fun s v => ⟨?_, ?_⟩
  · rw [← hostWrite_eq]
    exact transact_write_reg (r := .aStatus) (by decide) (.inl rfl)
  · rw [← hostWrite_eq]
    exact transact_write_reg (r := .bStatus) (by decide) (.inl rfl)

theorem regValue_writeReg_same {r : Reg} (h : r.access = .rw) (v : Word) (s : State) : regValue r (writeReg r v s) = v := by
  cases r with
  | aKey | aSrc | aSubkey | bX | bY | bM | bL | bMsgLen | bN | bE | bD => rfl
  | aCmd | aStatus | aRes | aK1 | aK2 | bCmd | bStatus | bRes | bRes2 | bRes3 | bP | bQ | bPhi | bAttempts | info => cases h

theorem regValue_writeReg_ne {r r' : Reg} (h : r.access = .rw) (hne : r' ≠ r) (v : Word) (s : State) :
    regValue r' (writeReg r v s) = regValue r' s := by
  cases r with
  | aKey | aSrc | aSubkey | bX | bY | bM | bL | bMsgLen | bN | bE | bD =>
    cases r' <;> trivial
  | aCmd | aStatus | aRes | aK1 | aK2 | bCmd | bStatus | bRes | bRes2 | bRes3 | bP | bQ | bPhi | bAttempts | info => cases h

theorem writeReg_rw_frame {r : Reg} (h : r.access = .rw) (v : Word) (s : State) :
    (writeReg r v s).mem = s.mem ∧ (writeReg r v s).unitA.phase = s.unitA.phase ∧
      (writeReg r v s).unitB.phase = s.unitB.phase ∧ (writeReg r v s).cfg = s.cfg := by
  cases r with
  | aKey | aSrc | aSubkey | bX | bY | bM | bL | bMsgLen | bN | bE | bD => exact ⟨rfl, rfl, rfl, rfl⟩
  | aCmd | aStatus | aRes | aK1 | aK2 | bCmd | bStatus | bRes | bRes2 | bRes3 | bP | bQ | bPhi | bAttempts | info => cases h

/-- Settles O52: the register holds the value written, so a read returns it, and the write changes nothing else. -/
theorem registerWriteThenRead : Obligations.RegisterWriteThenRead := by
  intro s r v hrw hidle
  have hro : r.access ≠ .ro := by simp [hrw]
  have hframe := writeReg_rw_frame hrw v s
  refine ⟨_, transact_write_reg hro (.inr hidle), rfl, ?_, fun r' hne => regValue_writeReg_ne hrw hne v s, hframe⟩
  rw [← hframe.2.2.2]
  refine (transact_read_reg (s := { writeReg r v s with port := .ack }) (.inl hro)).trans ?_
  rw [show regValue r { writeReg r v s with port := .ack } = v from regValue_writeReg_same hrw v s]

theorem transact_read_msg {s : State} {i : Nat} {v : Word} (hi : i < s.cfg.msgDepth) (hd : s.cfg.msgDepth ≤ 256)
    (hidle : s.unitB.busy = false) (hv : s.mem.readWord (msgOffset i) = some v) :
    transact (.read (s.cfg.engineBase + msgOffset i) .w64) s = { s with port := .data v } := by
  have hb : ownerBusy (.msg i) s = false := hidle
  rw [transact_read s _ _ (msgOffset_lt hi hd) (targetAt_msg _ i hi), readTarget, if_neg (by simp [hb]), readEntry_written hv]
  rfl

/-- Settles O58. -/
theorem messageEntryWriteThenRead : Obligations.MessageEntryWriteThenRead := by
  intro s i v hwf hi hd hp
  have hidle := unitB_busy_idle s.unitB hp
  refine ⟨s.mem.writeWord (msgOffset i) v, ?_, ?_, fun b hb => ?_⟩
  · exact transact_write_stored (msgOffset_lt hi hd) (targetAt_msg _ i hi) rfl (.inr fun u hu => by cases hu; exact hidle)
  · exact transact_read_msg (s := { s with port := .ack, mem := s.mem.writeWord (msgOffset i) v }) hi hd hidle
      (readWord_writeWord_same _ _ v hwf)
  · rw [readByte_writeWord _ _ _ v hwf, if_neg (by omega)]

/-! ### STATUS and INFO -/

theorem toNat_append_eq {m n : Nat} (x : BitVec m) (y : BitVec n) : (x ++ y).toNat = 2 ^ n * x.toNat + y.toNat := by
  rw [BitVec.toNat_append, ← Nat.shiftLeft_add_eq_or_of_lt y.isLt, Nat.shiftLeft_eq, Nat.mul_comm]

/-- The bits of STATUS 0 to 3 (10_state R31). -/
theorem Status.getLsbD_word (st : Status) (busy : Bool) :
    (st.word busy).getLsbD 0 = busy ∧ (st.word busy).getLsbD 1 = st.done ∧ (st.word busy).getLsbD 2 = st.err.isSome ∧
      (st.word busy).getLsbD 3 = st.ovr := by
  simp only [Status.word, BitVec.getLsbD_setWidth, BitVec.getLsbD_append, BitVec.getLsbD_ofBool]
  simp

theorem Status.toNat_word (st : Status) (busy : Bool) :
    (st.word busy).toNat = 16 * st.errCode.toNat + 8 * st.ovr.toNat + 4 * st.err.isSome.toNat + 2 * st.done.toNat + busy.toNat := by
  rw [Status.word, BitVec.toNat_setWidth_of_le (by decide)]
  simp only [toNat_append_eq, BitVec.toNat_ofBool]
  ring

/-- Above its four flags STATUS holds ERRCODE and nothing else (10_state R31). -/
theorem Status.word_bounds (st : Status) (busy : Bool) :
    (st.word busy).toNat < 2 ^ 8 ∧ (st.word busy).toNat / 2 ^ 4 = st.errCode.toNat := by
  have hcode := st.errCode.isLt
  have hovr := st.ovr.toNat_le
  have herr := st.err.isSome.toNat_le
  have hdone := st.done.toNat_le
  have hbusy := busy.toNat_le
  rw [st.toNat_word busy]
  omega

theorem Status.errCode_none {st : Status} (h : st.err = none) : st.errCode.toNat = 0 := by
  simp [Status.errCode, h]

theorem Status.errCode_some {st : Status} {c : ErrCode} (h : st.err = some c) : st.errCode.toNat = errorNumber c := by
  rw [Status.errCode, h]
  cases c <;> rfl

theorem EngineInv.statusOf_busy {s : State} (h : EngineInv s) {u : UnitId} (hb : s.busy u = true) :
    (statusOf u s).done = false ∧ (statusOf u s).err = none := by
  cases u with
  | a => exact h.statusA hb
  | b => exact h.statusB hb

theorem toNat_infoWord {c : Config} (h : c.ParamsOk) :
    (infoWord c).toNat = c.pkWidth + 2 ^ 8 * c.rangeCheck.toNat + 2 ^ 16 * c.msgDepth + 2 ^ 32 * (c.attemptLimit != 0).toNat := by
  obtain ⟨⟨-, -, hw⟩, ⟨-, hd⟩, -, -⟩ := h
  have hw' : c.pkWidth % 2 ^ 8 = c.pkWidth := Nat.mod_eq_of_lt (by omega)
  have hd' : c.msgDepth % 2 ^ 16 = c.msgDepth := Nat.mod_eq_of_lt (by omega)
  have h0 : (0 : BitVec 7).toNat = 0 := rfl
  rw [infoWord, BitVec.toNat_setWidth_of_le (by decide)]
  simp only [toNat_append_eq, BitVec.toNat_ofBool, BitVec.toNat_ofNat, hw', hd', h0]
  ring

theorem regValue_statusReg (u : UnitId) (s : State) : regValue (statusReg u) s = (statusOf u s).word (s.busy u) := by
  cases u <;> rfl

/-- Settles O54: the word is its four flags and ERRCODE, and a Busy unit has no DONE and no error by the invariant. -/
theorem statusWordLayout : Obligations.StatusWordLayout := by
  intro s u st hinv hst
  rw [regValue_statusReg] at hst
  obtain ⟨hbusy, hdone, herr, hovr⟩ := (statusOf u s).getLsbD_word (s.busy u)
  obtain ⟨hlt, hcode⟩ := (statusOf u s).word_bounds (s.busy u)
  subst hst
  refine ⟨hlt, hbusy, hdone, ?_, hovr, fun h => hcode.trans (Status.errCode_none h), fun c h => hcode.trans (Status.errCode_some h),
    fun hb => ?_⟩
  · rw [herr, Option.isSome_iff_ne_none]
  · obtain ⟨hd, he⟩ := hinv.statusOf_busy hb
    exact ⟨hdone.trans hd, by rw [herr, he]; rfl, hcode.trans (Status.errCode_none he)⟩

/-- Settles O55: INFO is read whatever the phases, and no step changes the configuration it is made of. -/
theorem infoReportsTheConfiguration : Obligations.InfoReportsTheConfiguration := by
  intro s hwf
  have hread (t : State) : transact (.read (t.cfg.engineBase + 0x7F8) .w64) t = { t with port := .data (infoWord t.cfg) } :=
    transact_read_reg (r := .info) (.inr fun u hu => by cases hu)
  refine ⟨infoWord s.cfg, hread s, toNat_infoWord hwf.1, fun t ht => ?_⟩
  rw [← step_cfg ht]
  exact hread t

end Sys2Proof.Machine
end

section
/-! The message commands over entries that nothing has written (10_state R55; 42_pk_modexp_msg R242; log 5, 6, 7). -/

namespace Sys2Proof.Machine

open Sys2Proof

/-- Past its checks, a message command is its three loops over the entries (42_pk_modexp_msg R242, R243). -/
theorem exec_message_of_keyOk {i : Instr} {s : State} {x : Word} (hi : MessageExponent i s x) (h : MessageKeyOk s x) :
    exec i s = transformEntries x.toNat s.unitB.n.toNat s.unitB.msgLen.toNat s := by
  obtain ⟨hx, hn, h0, hd⟩ := h
  have hexec : exec i s = transformMessage x s := by
    rcases hi with ⟨rfl, rfl⟩ | ⟨rfl, rfl⟩ <;> rfl
  rw [hexec, transformMessage, require_pos hx, require_pos ⟨hn, h0⟩, require_pos hd]

/-- In a 64-bit datapath with no range check every value passes, so the entries are replaced whatever was read. -/
theorem transformEntries_completes {s : State} (hw : s.cfg.pkWidth = 64) (hr : s.cfg.rangeCheck = false) (x n len : Nat) :
    ∃ k, ∃ vs : List Word, vs.length = len ∧ transformEntries x n len s = .next (okB
      { s with mem := s.mem.writeEntries 0 (vs.map fun v => reg64 (modexp v.toNat x n)), freeCount := k } s.unitB) := by
  obtain ⟨k, hk⟩ := readEntries_snd len 0 s
  obtain ⟨k', hk'⟩ := readEntries_snd len 0 { s with freeCount := k }
  have hfit : allFit s.cfg.pkWidth (readEntries len 0 s).1 = true := by
    rw [hw]
    exact allFit_iff.mpr fun v _ => v.isLt
  refine ⟨k', (readEntries len 0 { s with freeCount := k }).1, readEntries_length _ _ _, ?_⟩
  simp only [transformEntries, hr, Bool.false_eq_true, if_false]
  rw [require_pos hfit, require_pos (by rfl), hk, completeB_eq, hk']
  rfl

/-- Settles O44: the command completes, and each entry it wrote is a remainder modulo B_N. -/
theorem unwrittenEntriesDoNotStopMessages : Obligations.UnwrittenEntriesDoNotStopMessages := by
  intro i s x hi hkey hwf hw hr
  obtain ⟨k, vs, hl, he⟩ := transformEntries_completes hw hr x.toNat s.unitB.n.toNat s.unitB.msgLen.toNat
  refine ⟨_, k, (exec_message_of_keyOk hi hkey).trans he, fun j hj => ?_, fun b hb => ?_⟩
  · have hj' : j < (vs.map fun v => reg64 (modexp v.toNat x.toNat s.unitB.n.toNat)).length := by rwa [List.length_map, hl]
    have hread := readWord_writeEntries s.mem 0 j _ hwf hj'
    rw [Nat.zero_add] at hread
    refine ⟨_, hread, ?_⟩
    rw [List.getElem_map, modexp_eq]
    obtain ⟨-, -, h0, -⟩ := hkey
    exact (Nat.mod_le _ _).trans_lt (Nat.mod_lt _ (Nat.pos_of_ne_zero h0))
  · exact readByte_writeEntries_outside _ _ _ _ hwf (by rwa [List.length_map, hl, Nat.zero_add])

end Sys2Proof.Machine
end

section
/-! Events and Busy units (20_memory R68 to R80): every event has an outcome, a unit's turn keeps to its unit, the host cannot end a Busy
phase, and what a transaction gets from a Busy unit. -/

namespace Sys2Proof.Machine

open Sys2Proof

/-! ### Every event has an outcome -/

theorem exec_answers_next (i : Instr) (s : State) : ∃ t, exec i s = .next t := by
  cases hu : i.unit with
  | a =>
    rcases exec_unitA_cases i s hu with ⟨res, k1, k2, e⟩ | e
    · exact ⟨_, e⟩
    · exact ⟨_, e⟩
  | b =>
    obtain ⟨t, e, -⟩ := exec_unitB_outcome i s hu
    exact ⟨t, e⟩

theorem raiseError_answers_next (u : UnitId) (c : ErrCode) (s : State) : ∃ t, raiseError u c s = .next t := by
  cases u with
  | a => exact ⟨_, raiseError_a c s⟩
  | b => exact ⟨_, raiseError_b c s⟩

theorem runWord_answers_next (u : UnitId) (w : Word) (s : State) : ∃ t, runWord u w s = .next t := by
  unfold runWord
  split
  next i _ => exact exec_answers_next i s
  next => exact raiseError_answers_next u .illegal s

theorem unitATurn_answers_next (s : State) : ∃ t, unitATurn s = .next t := by
  unfold unitATurn
  split
  next => exact ⟨_, rfl⟩
  next w _ => exact runWord_answers_next .a w s

theorem unitBTurn_answers_next (r : Word) (s : State) : ∃ t, unitBTurn r s = .next t := by
  unfold unitBTurn
  split
  next => exact ⟨_, rfl⟩
  next w _ _ => exact runWord_answers_next .b w _

theorem takeTurn_answers_next (turn : Turn) (s : State) : ∃ t, takeTurn turn s = .next t := by
  cases turn with
  | host => exact ⟨_, rfl⟩
  | reset => exact ⟨_, rfl⟩
  | unitA => exact unitATurn_answers_next s
  | unitB r => exact unitBTurn_answers_next r s

/-- Settles O9: every kind of turn answers a next state, since no command faults or is refused. -/
theorem everyStepAnswersNext : Obligations.EveryStepAnswersNext :=
  fun s => takeTurn_answers_next (nextTurn s).1 (nextTurn s).2

/-! ### A unit's turn keeps to its unit -/

theorem runWord_b_keeps_others {w : Word} {s t : State} (h : runWord .b w s = .next t) :
    t = { s with unitB := t.unitB, mem := t.mem, freeCount := t.freeCount } := by
  unfold runWord at h
  split at h
  next i hi => exact (exec_b_outcome (decode_ok hi).1 h).frame
  next => cases h; rfl

theorem unitATurn_frame {s t : State} (h : unitATurn s = .next t) : t = { s with unitA := t.unitA } := by
  unfold unitATurn at h
  split at h
  next => cases h; rfl
  next => exact runWord_a_frame h

theorem unitBTurn_frame {r : Word} {s t : State} (h : unitBTurn r s = .next t) :
    t = { s with entropy := r, unitB := t.unitB, mem := t.mem, freeCount := t.freeCount } := by
  unfold unitBTurn at h
  split at h
  next => cases h; rfl
  next => exact runWord_b_keeps_others h

/-- Settles O11: the step of a listed turn is that unit's turn, and each unit's turn has its frame. -/
theorem unitsAreIndependent : Obligations.UnitsAreIndependent := by
  refine fun s t rest h => ⟨fun hs => ?_, fun r hs => ?_⟩
  · rw [step_of_sched hs] at h
    exact unitATurn_frame h
  · rw [step_of_sched hs] at h
    exact unitBTurn_frame h

/-! ### The host cannot end a Busy phase -/

/-- A stored write leaves a Busy unit Busy: only a CMD register's write touches a phase, and it makes it Busy (10_state R24, R34). -/
theorem writeReg_keeps_busy (r : Reg) (v : Word) {u : UnitId} {s : State} (h : s.busy u = true) :
    (writeReg r v s).busy u = true := by
  cases r with
  | aCmd =>
    cases u with
    | a => rfl
    | b => exact h
  | bCmd =>
    cases u with
    | a => exact h
    | b => rfl
  | aStatus | aKey | aSrc | aSubkey | aRes | aK1 | aK2 | bStatus | bX | bY | bM | bL | bRes | bRes2 | bRes3 | bMsgLen | bN | bE | bD
  | bP | bQ | bPhi | bAttempts | info => cases u <;> exact h

theorem refuseWrite_busy (u u' : UnitId) (s : State) : (refuseWrite u s).busy u' = s.busy u' := by
  cases u <;> cases u' <;> rfl

theorem writeTarget_keeps_busy (t : Target) (v : Word) {u : UnitId} {s : State} (h : s.busy u = true) :
    (writeTarget t v s).busy u = true := by
  rcases writeTarget_cases t v s with ⟨u', e⟩ | ⟨-, e⟩
  · rw [e, refuseWrite_busy, h]
  · rw [e]
    cases t with
    | reg r => exact writeReg_keeps_busy r v h
    | msg i => cases u <;> exact h

theorem busy_congr {s t : State} (hA : t.unitA = s.unitA) (hB : t.unitB = s.unitB) (u : UnitId) : t.busy u = s.busy u := by
  cases u with
  | a => exact congrArg UnitA.busy hA
  | b => exact congrArg UnitB.busy hB

theorem transact_keeps_busy (x : Transaction) {u : UnitId} {s : State} (h : s.busy u = true) : (transact x s).busy u = true := by
  rcases transact_cases x s with ⟨p, k, e⟩ | ⟨off, tgt, v, -, e⟩
  · rw [e]
    exact (busy_congr rfl rfl u).trans h
  · rw [e, busy_congr (answer_unitA _ _) (answer_unitB _ _), writeTarget_keeps_busy tgt v h]

theorem hostTurn_keeps_busy {u : UnitId} {s : State} (h : s.busy u = true) : (hostTurn s).busy u = true := by
  rcases hostTurn_cases s with e | ⟨x, ops, e⟩ | ⟨u', ops, failed, e⟩
  · rw [e, h]
  · rw [e]
    exact transact_keeps_busy x ((busy_congr rfl rfl u).trans h)
  · rw [e]
    exact (busy_congr rfl rfl u).trans (transact_keeps_busy _ h)

/-- Settles O13: the host's turn keeps a Busy unit Busy, and the other unit's turn keeps the whole unit. -/
theorem onlyOwnStepsAndResetEndBusy : Obligations.OnlyOwnStepsAndResetEndBusy := by
  intro s t turn rest hs h
  obtain ⟨hturnA, hturnB⟩ := unitsAreIndependent s t rest h
  cases turn with
  | host =>
    have hhost {u : UnitId} (hb : s.busy u = true) : t.busy u = true := by
      obtain rfl : hostTurn { s with sched := rest } = t := Host.Outcome.next.inj ((step_of_sched hs).symm.trans h)
      exact hostTurn_keeps_busy ((busy_congr rfl rfl u).trans hb)
    exact ⟨fun hb hi => absurd (hhost (u := .a) hb) (Bool.eq_false_iff.mp hi),
      fun hb hi => absurd (hhost (u := .b) hb) (Bool.eq_false_iff.mp hi)⟩
  | unitA =>
    have hB : t.unitB = s.unitB := by rw [hturnA hs]
    exact ⟨fun _ _ => .inl rfl, fun hb hi => absurd (hB ▸ hb) (Bool.eq_false_iff.mp hi)⟩
  | unitB r =>
    have hA : t.unitA = s.unitA := by rw [hturnB r hs]
    exact ⟨fun hb hi => absurd (hA ▸ hb) (Bool.eq_false_iff.mp hi), fun _ _ => .inl ⟨r, rfl⟩⟩
  | reset => exact ⟨fun _ _ => .inr rfl, fun _ _ => .inr rfl⟩

/-! ### Transactions with a Busy unit -/

theorem writeTarget_refused {t : Target} {u : UnitId} {v : Word} {s : State} (hu : t.owner = some u) (hb : s.busy u = true)
    (hs : t.isStatus = false) : writeTarget t v s = refuseWrite u s := by
  unfold writeTarget
  rw [hu]
  exact if_pos ⟨hb, hs⟩

/-- A write of a target of a Busy unit, but for its STATUS, is refused and acknowledged (20_memory R69; log 9). -/
theorem transact_write_refused {s : State} {off : Nat} {t : Target} {u : UnitId} {v : Word} (ho : off < 4096)
    (ht : targetAt s.cfg off = some t) (hw : t.writable = true) (hs : t.isStatus = false) (hu : t.owner = some u)
    (hb : s.busy u = true) : transact (.write (s.cfg.engineBase + off) .w64 v) s = answer .ack (refuseWrite u s) := by
  rw [transact_write s off t v ho ht, if_pos hw, writeTarget_refused hu hb hs]

theorem transact_write_reg_refused {s : State} {r : Reg} {u : UnitId} {v : Word} (hu : r.owner = some u)
    (hr : r.access = .rw ∨ r.access = .cmd) (hb : s.busy u = true) :
    transact (.write (s.cfg.engineBase + r.offset) .w64 v) s = answer .ack (refuseWrite u s) := by
  have hkind : (Target.reg r).writable = true ∧ (Target.reg r).isStatus = false := by
    rcases hr with h | h <;> simp [Target.writable, Target.isStatus, h]
  exact transact_write_refused (offset_lt r) (targetAt_reg _ r) hkind.1 hkind.2 hu hb

/-- Settles O50: the register or entry is writable and no STATUS, so its Busy owner refuses the write. -/
theorem writeToABusyUnitIsRefused : Obligations.WriteToABusyUnitIsRefused := by
  refine fun s v => ⟨fun r hu hr hb => ?_, fun r hu hr hb => ?_, fun i hi hd hb => ?_⟩
  · exact transact_write_reg_refused (u := .a) hu hr hb
  · exact transact_write_reg_refused (u := .b) hu hr hb
  · exact transact_write_refused (u := .b) (msgOffset_lt hi hd) (targetAt_msg _ i hi) rfl rfl rfl hb

/-- Settles O56: a read inside the window only answers and may use up a free value, and one outside it only answers. -/
theorem readsHaveNoSideEffect : Obligations.ReadsHaveNoSideEffect := by
  intro s addr w
  simp only [transact]
  split
  next off _ => exact hostRead_frame off w s
  next => exact ⟨.notAddressed, s.freeCount, rfl⟩

/-- A read of a target whose value is unspecified returns the next free value (20_memory R70; log 5). -/
theorem transact_read_free {s : State} {off : Nat} {t : Target} (ho : off < 4096) (ht : targetAt s.cfg off = some t)
    (hfree : readTarget t s = freshWord s) : transact (.read (s.cfg.engineBase + off) .w64) s =
      { s with port := .data (Config.freeWord s.freeCount), freeCount := s.freeCount + 1 } := by
  rw [transact_read s off t ho ht, hfree]
  rfl

theorem readTarget_result_busy {r : Reg} {u : UnitId} {s : State} (hro : r.access = .ro) (hu : r.owner = some u)
    (hb : s.busy u = true) : readTarget (.reg r) s = freshWord s := by
  have howner : ownerBusy (.reg r) s = true := by simp [ownerBusy, Target.owner, hu, hb]
  exact if_pos ⟨hro, howner⟩

/-- An entry has no value to read while Unit B is Busy, nor before it is written (20_memory R70, 10_state R55). -/
theorem readTarget_msg_free {i : Nat} {s : State} (h : s.unitB.busy = true ∨ s.mem.readWord (msgOffset i) = none) :
    readTarget (.msg i) s = freshWord s := by
  have howner : ownerBusy (.msg i) s = s.unitB.busy := rfl
  unfold readTarget
  rw [howner]
  split_ifs with hb
  · rfl
  · exact readEntry_unwritten (h.resolve_left hb)

/-- Settles O57: held values by the reads of an Idle unit, free ones by the unspecified reads. -/
theorem whatAReadReturns : Obligations.WhatAReadReturns := by
  refine fun s => ⟨fun r hidle => ?_, fun r u hro hu hb => ?_, fun i hi hd => ⟨fun h => ?_, fun v hb hv => ?_⟩⟩
  · exact transact_read_reg (or_iff_not_imp_left.mpr fun hro => hidle (not_not.mp hro))
  · exact transact_read_free (offset_lt r) (targetAt_reg _ r) (readTarget_result_busy hro hu hb)
  · exact transact_read_free (msgOffset_lt hi hd) (targetAt_msg _ i hi) (readTarget_msg_free h)
  · exact transact_read_msg hi hd hb hv

end Sys2Proof.Machine
end

section
/-! Decoding a command word (30_encoding R90 to R98): the two directions of the round trip, and what each table refuses, in the order of
R91. -/

namespace Sys2Proof.Machine

open Sys2Proof

/-! ### The round trip -/

theorem decode_encode (i : Instr) : decode i.unit (encode i) = .ok i := by cases i <;> rfl

/-- Settles O2: a decoded word is the encoded one, and the encoder's word decodes in the command's own unit. -/
theorem decodeExactlyTheEncodedWord : Obligations.DecodeExactlyTheEncodedWord := by
  refine fun u w i => ⟨fun h => ?_, ?_⟩
  · obtain ⟨hu, hw⟩ := decode_ok h
    exact ⟨hu, hw.symm⟩
  · rintro ⟨rfl, rfl⟩
    exact decode_encode i

/-- Settles O1: each word computes to its command or to the check it fails. -/
theorem writtenOutWordsDecode : Obligations.WrittenOutWordsDecode := by
  unfold Obligations.WrittenOutWordsDecode
  decide

/-! ### The fields as numbers -/

theorem rsvField_eq_zero_iff (w : Word) : rsvField w = 0 ↔ w.toNat / 2 ^ 11 = 0 := by
  have hlt : w.toNat / 2 ^ 11 < 2 ^ 53 := by omega
  rw [rsvField, ← BitVec.toNat_inj, BitVec.extractLsb'_toNat, Nat.shiftRight_eq_div_pow, Nat.mod_eq_of_lt hlt]
  rfl

theorem opcField_toNat (w : Word) : (opcField w).toNat = w.toNat % 2 ^ 8 := by
  rw [opcField, BitVec.extractLsb'_toNat, Nat.shiftRight_zero]

theorem selField_toNat (w : Word) : (selField w).toNat = w.toNat / 2 ^ 8 % 2 ^ 3 := by
  rw [selField, BitVec.extractLsb'_toNat, Nat.shiftRight_eq_div_pow]

/-! ### What a unit's table answers for an opcode and a selector -/

/-- The answers that a unit's table may give for the fields OPC and SEL (30_encoding R91): the opcode is judged before the selector. -/
inductive TableAnswer (u : UnitId) (opc sel : Nat) : Except Reject Instr → Prop where
  | opcode (ho : ¬OpcodeLegal u opc) : TableAnswer u opc sel (.error .opcode)
  | selector (ho : OpcodeLegal u opc) (hs : ¬SelLegal opc sel) : TableAnswer u opc sel (.error .selector)
  | command (i : Instr) (ho : OpcodeLegal u opc) (hs : SelLegal opc sel) : TableAnswer u opc sel (.ok i)

theorem decodePerm_answer (sel : BitVec 3) : TableAnswer .a 0x10 sel.toNat (decodePerm sel) := by
  have ho : OpcodeLegal .a 0x10 := by simp [OpcodeLegal]
  have hs : SelLegal 0x10 sel.toNat ↔ sel.toNat ≤ 5 := Iff.rfl
  unfold decodePerm
  split
  case h_7 => exact .selector ho (mt hs.mp (by grind))
  all_goals exact .command _ ho (hs.mpr (by omega))

theorem decodeRotl5_answer (sel : BitVec 3) : TableAnswer .a 0x11 sel.toNat (decodeRotl5 sel) := by
  have ho : OpcodeLegal .a 0x11 := by simp [OpcodeLegal]
  have hs : SelLegal 0x11 sel.toNat ↔ sel.toNat ≤ 4 := Iff.rfl
  unfold decodeRotl5
  split
  case h_6 => exact .selector ho (mt hs.mp (by grind))
  all_goals exact .command _ ho (hs.mpr (by omega))

theorem decodeSbox_answer (sel : BitVec 3) : TableAnswer .a 0x12 sel.toNat (decodeSbox sel) := by
  have ho : OpcodeLegal .a 0x12 := by simp [OpcodeLegal]
  have hs : SelLegal 0x12 sel.toNat ↔ sel.toNat ≤ 1 := Iff.rfl
  unfold decodeSbox
  split
  case h_3 => exact .selector ho (mt hs.mp (by grind))
  all_goals exact .command _ ho (hs.mpr (by omega))

/-- Any other opcode of a table allows the selector 0 only (30_encoding R97). -/
theorem onlySelZero_answer {u : UnitId} {opc : Nat} (sel : BitVec 3) (i : Instr) (ho : OpcodeLegal u opc)
    (h : 0x12 < opc) : TableAnswer u opc sel.toNat (onlySelZero sel i) := by
  have hs : SelLegal opc sel.toNat ↔ sel = 0 := by
    rw [SelLegal, if_neg (by omega), if_neg (by omega), if_neg (by omega), Nat.le_zero, ← BitVec.toNat_inj]
    rfl
  unfold onlySelZero
  split
  next h0 => exact .command i ho (hs.mpr h0)
  next h0 => exact .selector ho (h0 ∘ hs.mp)

theorem decodeUnitA_answer (opc : BitVec 8) (sel : BitVec 3) : TableAnswer .a opc.toNat sel.toNat (decodeUnitA opc sel) := by
  have ho : OpcodeLegal .a opc.toNat ↔ 0x10 ≤ opc.toNat ∧ opc.toNat ≤ 0x18 := Iff.rfl
  unfold decodeUnitA
  split
  case h_1 h => exact h ▸ decodePerm_answer sel
  case h_2 h => exact h ▸ decodeRotl5_answer sel
  case h_3 h => exact h ▸ decodeSbox_answer sel
  case h_10 => exact .opcode (mt ho.mp (by grind))
  all_goals exact onlySelZero_answer sel _ (ho.mpr (by omega)) (by omega)

theorem decodeUnitB_answer (opc : BitVec 8) (sel : BitVec 3) : TableAnswer .b opc.toNat sel.toNat (decodeUnitB opc sel) := by
  have ho : OpcodeLegal .b opc.toNat ↔ 0x20 ≤ opc.toNat ∧ opc.toNat ≤ 0x29 := Iff.rfl
  unfold decodeUnitB
  split
  case h_11 => exact .opcode (mt ho.mp (by grind))
  all_goals exact onlySelZero_answer sel _ (ho.mpr (by omega)) (by omega)

theorem decode_of_reserved {u : UnitId} {w : Word} (h : w.toNat / 2 ^ 11 ≠ 0) : decode u w = .error .reserved :=
  if_pos (h ∘ (rsvField_eq_zero_iff w).mp)

/-- A word with RSV = 0 is decoded by its unit's table (30_encoding R91). -/
theorem decode_answer (u : UnitId) {w : Word} (h : w.toNat / 2 ^ 11 = 0) :
    TableAnswer u (w.toNat % 2 ^ 8) (w.toNat / 2 ^ 8 % 2 ^ 3) (decode u w) := by
  rw [← opcField_toNat, ← selField_toNat]
  unfold decode
  rw [if_neg (not_not.mpr ((rsvField_eq_zero_iff w).mpr h))]
  cases u with
  | a => exact decodeUnitA_answer _ _
  | b => exact decodeUnitB_answer _ _

theorem TableAnswer.error_iff {u : UnitId} {opc sel : Nat} {d : Except Reject Instr} (h : TableAnswer u opc sel d) :
    d ≠ .error .reserved ∧ (d = .error .opcode ↔ ¬OpcodeLegal u opc) ∧
      (d = .error .selector ↔ OpcodeLegal u opc ∧ ¬SelLegal opc sel) := by
  cases h with
  | opcode ho => simp [ho]
  | selector ho hs => simp [ho, hs]
  | command i ho hs => simp [ho, hs]

/-- Settles O3: a word with RSV not 0 is refused before its table is asked, and the table judges OPC before SEL. -/
theorem rejectionOrder : Obligations.RejectionOrder := by
  intro u w
  by_cases hr : w.toNat / 2 ^ 11 = 0
  · obtain ⟨hreserved, hopcode, hselector⟩ := (decode_answer u hr).error_iff
    exact ⟨iff_of_false hreserved (not_not.mpr hr), hopcode.trans (and_iff_right hr).symm,
      hselector.trans (and_iff_right hr).symm⟩
  · rw [decode_of_reserved hr]
    exact ⟨iff_of_true rfl hr, iff_of_false (by decide) fun h => hr h.1, iff_of_false (by decide) fun h => hr h.1⟩

end Sys2Proof.Machine
end

section
/-! The host's program: what each line does in the host's turn (30_encoding R101, R102, R104), and that a stopped program stays as it
is whatever the event. -/

namespace Sys2Proof.Machine

open Sys2Proof

/-! ### A stopped program -/

theorem takeTurn_keeps_stopped_host {turn : Turn} {s t : State} (hf : s.hostFailed = true) (h : takeTurn turn s = .next t) :
    t.hostFailed = s.hostFailed ∧ t.host = s.host := by
  cases turn with
  | host =>
    obtain rfl : hostTurn s = t := Host.Outcome.next.inj h
    rw [hostTurn_stopped hf]
    exact ⟨rfl, rfl⟩
  | unitA =>
    rw [unitATurn_frame h]
    exact ⟨rfl, rfl⟩
  | unitB r =>
    rw [unitBTurn_frame h]
    exact ⟨rfl, rfl⟩
  | reset =>
    cases h
    exact ⟨rfl, rfl⟩

theorem step_keeps_stopped_host {s t : State} (hf : s.hostFailed = true) (h : step s = .next t) :
    t.hostFailed = true ∧ t.host = s.host := by
  obtain ⟨sched, k, hs⟩ := nextTurn_snd s
  have hkeep := takeTurn_keeps_stopped_host (by rw [hs]; exact hf) h
  rw [hs] at hkeep
  exact ⟨hkeep.1.trans hf, hkeep.2⟩

/-- A run with lines left to execute is not over (70_reset_and_hazards R329). -/
theorem runOver_of_host_ne_nil {s : State} (h : s.host ≠ []) : s.runOver = false := by
  simp [State.runOver, h]

/-! ### The lines -/

/-- The read of STATUS that WAIT and CHECK make returns it and does nothing else (20_memory R68, R70). -/
theorem pollStatus_eq (u : UnitId) (s : State) : pollStatus u s = { s with port := .data (s.statusWord u) } := by
  have hro : (statusReg u).access ≠ .ro := by cases u <;> decide
  have hval : regValue (statusReg u) s = s.statusWord u := by cases u <;> rfl
  rw [pollStatus, transact_read_reg (.inl hro), hval]

/-- BUSY is bit 0 of STATUS (10_state R31). -/
theorem statusWord_bit_busy (u : UnitId) (s : State) : (s.statusWord u).getLsbD 0 = s.busy u := by
  cases u with
  | a => exact (s.unitA.status.getLsbD_word s.unitA.busy).1
  | b => exact (s.unitB.status.getLsbD_word s.unitB.busy).1

theorem hostOperation_bus {s : State} {x : Transaction} {ops : List HostOp} (h : s.host = .bus x :: ops) :
    hostOperation s = transact x { s with host := ops } := by
  unfold hostOperation
  rw [h]

theorem hostOperation_wait {s : State} {u : UnitId} {ops : List HostOp} (h : s.host = .wait u :: ops) :
    hostOperation s = { s with port := .data (s.statusWord u), host := if s.busy u then .wait u :: ops else ops } := by
  have hbit : portBit 0 (pollStatus u s) = s.busy u := by rw [pollStatus_eq]; exact statusWord_bit_busy u s
  unfold hostOperation
  simp only [h, hbit]
  rw [pollStatus_eq]
  split
  · rw [← h]
  · rfl

theorem hostOperation_check {s : State} {u : UnitId} {ops : List HostOp} (h : s.host = .check u :: ops) :
    hostOperation s = { s with
      port := .data (s.statusWord u), host := ops, hostFailed := (s.statusWord u).getLsbD 2 || s.hostFailed } := by
  have hbit : portBit 2 (pollStatus u s) = (s.statusWord u).getLsbD 2 := by rw [pollStatus_eq]; rfl
  unfold hostOperation
  simp only [h, hbit]
  rw [pollStatus_eq]
  cases (s.statusWord u).getLsbD 2 <;> rfl

/-- The step of the host's listed turn, when no CHECK has stopped its program. -/
theorem step_host_running {s : State} {rest : List Turn} (hs : s.sched = .host :: rest) (hf : s.hostFailed = false) :
    step s = .next (hostOperation { s with sched := rest }) := by
  rw [step_of_sched hs, takeTurn, hostTurn_running (s := { s with sched := rest }) hf]

theorem step_wait_line {s : State} {rest : List Turn} {u : UnitId} {ops : List HostOp} (hs : s.sched = .host :: rest)
    (hf : s.hostFailed = false) (hh : s.host = .wait u :: ops) :
    step s = .next { s with
      sched := rest, port := .data (s.statusWord u), host := if s.busy u then .wait u :: ops else ops } := by
  rw [step_host_running hs hf, hostOperation_wait (s := { s with sched := rest }) hh]
  rfl

theorem step_check_line {s : State} {rest : List Turn} {u : UnitId} {ops : List HostOp} (hs : s.sched = .host :: rest)
    (hf : s.hostFailed = false) (hh : s.host = .check u :: ops) :
    step s = .next { s with
      sched := rest, port := .data (s.statusWord u), host := ops, hostFailed := (s.statusWord u).getLsbD 2 } := by
  rw [step_host_running hs hf, hostOperation_check (s := { s with sched := rest }) hh, hf, Bool.or_false]
  rfl

/-- Settles O59: every event keeps a stopped program, and a running one does its WAIT or CHECK line by one read of STATUS. -/
theorem waitAndCheckLines : Obligations.WaitAndCheckLines := by
  refine ⟨fun s t hf h => ?_, fun s rest u ops hs hf => ⟨step_wait_line hs hf, fun hh => ⟨fun he => ?_, fun he => ?_⟩⟩⟩
  · obtain ⟨hfailed, hhost⟩ := step_keeps_stopped_host hf h
    exact ⟨hfailed, hhost, fun hne => runOver_of_host_ne_nil (hhost ▸ hne)⟩
  · rw [step_check_line hs hf hh, he, hf]
  · rw [step_check_line hs hf hh, he]

/-! ### Command lines -/

theorem runWord_encode (i : Instr) (s : State) : runWord i.unit (encode i) s = exec i s := by
  rw [runWord, decode_encode]

/-- A command line of an Idle unit writes its word to its unit's CMD register, and the write is accepted (30_encoding R102). -/
theorem step_command_line {s : State} {i : Instr} {ops : List HostOp} {rest : List Turn} (hidle : s.busy i.unit = false)
    (hf : s.hostFailed = false) (hh : s.host = assemble s.cfg [.command i] ++ ops) (hs : s.sched = .host :: rest) :
    step s = .next { writeReg (cmdReg i.unit) (encode i) { s with sched := rest, host := ops } with port := .ack } := by
  have haccess : (cmdReg i.unit).access ≠ .ro := by cases i.unit <;> decide
  have howner (u : UnitId) (hu : (cmdReg i.unit).owner = some u) :
      State.busy u { s with sched := rest, host := ops } = false := by
    obtain rfl : i.unit = u := by revert hu; cases i.unit <;> exact Option.some.inj
    exact (busy_congr rfl rfl _).trans hidle
  rw [step_host_running hs hf, hostOperation_bus (s := { s with sched := rest }) hh]
  exact congrArg _ (transact_write_reg haccess (.inr howner))

/-- Settles O60: the unit has latched the command's own word, so its turn decodes it to the command. -/
theorem commandLineIssuesTheCommand : Obligations.CommandLineIssuesTheCommand := by
  refine fun s i ops rest hidle hf hh => ⟨fun hu hs => ?_, fun r hu hs => ?_⟩
  all_goals
    have hstep := step_command_line hidle hf hh hs
    have hrun := runWord_encode i
    rw [hu] at hstep hrun
    refine ⟨_, hstep, rfl, rfl, rfl, ?_⟩
    rw [step_of_sched rfl]
    exact hrun _

end Sys2Proof.Machine
end

section
/-! The cipher functions of Unit A as rules R120 to R130 state them: the elements of a permutation, the bits of a rotation, the
integers of the S-boxes, and what cancels in the rounds (R147, R148, R150). -/

namespace Sys2Proof.Machine

open Sys2Proof

/-! ### Permutations -/

/-- Element i, counted from the most significant end (00_scope R14), as a bit position. -/
theorem getMsb_eq_getLsbD {n : Nat} (v : BitVec n) (i : Fin n) : v.getMsb i = v.getLsbD (n - 1 - i) := rfl

theorem eq_of_getMsb_eq {n : Nat} {v w : BitVec n} (h : ∀ i : Fin n, v.getMsb i = w.getMsb i) : v = w := by
  refine BitVec.eq_of_getMsbD_eq fun i hi => ?_
  rw [BitVec.getMsbD_eq_getLsbD, BitVec.getMsbD_eq_getLsbD]
  exact congrArg _ (h ⟨i, hi⟩)

/-- Settles O18: element i is element T[i] of the one-hot value, which is 1 only for T[i] = j. -/
theorem oneHotPermutation : Obligations.OneHotPermutation := by
  intro n m t j i
  rw [permute_getMsb, getMsb_eq_getLsbD, BitVec.getLsbD_twoPow, Bool.and_eq_true, decide_eq_true_eq, decide_eq_true_eq, Fin.ext_iff]
  omega

/-- A table undoes the table it is a right inverse of. -/
theorem permute_permute_cancel {n m : Nat} {t : PermTable n m} {u : PermTable m n} (h : ∀ i, t.get (u.get i) = i) (v : BitVec n) :
    permute u (permute t v) = v :=
  eq_of_getMsb_eq fun i => by rw [permute_getMsb, permute_getMsb, h]

/-- 00_scope R17: IP after FP and FP after IP change nothing. -/
theorem permute_IP_permute_FP {c : Config} (h : c.TablesOk) (v : BitVec 8) : permute c.tblIP (permute c.tblFP v) = v := by
  obtain ⟨hinj, hinv⟩ := h
  exact permute_permute_cancel (fun i => hinj _ _ (hinv (c.tblIP.get i))) v

theorem permute_FP_permute_IP {c : Config} (h : c.TablesOk) (v : BitVec 8) : permute c.tblFP (permute c.tblIP v) = v := by
  obtain ⟨-, hinv⟩ := h
  exact permute_permute_cancel hinv v

/-! ### Halves and rounds -/

theorem swapHalves_swapHalves (v : BitVec 8) : swapHalves (swapHalves v) = v := by simp [swapHalves]

theorem swapHalves_toNat (v : BitVec 8) : (swapHalves v).toNat = 16 * (v.toNat % 16) + v.toNat / 16 := by
  rw [swapHalves, append_toNat, rightHalf_toNat, leftHalf_toNat]
  rfl

/-- F reads the right half only, and fK leaves that half as it is. -/
theorem roundF_fK (c : Config) (sk v : BitVec 8) : roundF c sk (fK c sk v) = roundF c sk v := by simp [roundF, fK]

theorem fK_fK (c : Config) (sk v : BitVec 8) : fK c sk (fK c sk v) = v := by
  rw [fK, roundF_fK]
  simp [fK]

theorem fK_toNat (c : Config) (sk v : BitVec 8) :
    (fK c sk v).toNat = 16 * (v.toNat / 16 ^^^ (roundF c sk v).toNat) + v.toNat % 16 := by
  rw [fK, append_toNat, BitVec.toNat_xor, leftHalf_toNat, rightHalf_toNat]
  rfl

/-- Settles O26: F is the same before and after the round, so the second XOR takes the first one back. -/
theorem roundAndSwapAreInvolutions : Obligations.RoundAndSwapAreInvolutions :=
  fun c sk v => ⟨fK_fK c sk v, swapHalves_swapHalves v⟩

/-- The rounds with the subkeys exchanged undo the rounds: each step meets its own inverse (R147, R17). -/
theorem rounds_rounds {c : Config} (h : c.TablesOk) (k1 k2 v : BitVec 8) : rounds c k2 k1 (rounds c k1 k2 v) = v := by
  simp only [rounds, permute_IP_permute_FP h, fK_fK, swapHalves_swapHalves, permute_FP_permute_IP h]

theorem decryptBlock_encryptBlock {c : Config} (h : c.TablesOk) (p : BitVec 8) (key : BitVec 10) :
    decryptBlock c (encryptBlock c p key) key = p := rounds_rounds h _ _ p

/-! ### Rotations -/

/-- Bit j of a rotated half comes from k places below it, cyclically (R122). -/
theorem getLsbD_rotl5 (h : BitVec 5) {k j : Nat} (hk : k < 5) (hj : j < 5) :
    (rotl5 h k).getLsbD j = h.getLsbD ((j + 5 - k) % 5) := by
  rw [rotl5, BitVec.getLsbD_or, BitVec.getLsbD_shiftLeft, BitVec.getLsbD_ushiftRight]
  by_cases hjk : j < k
  · have hmod : (j + 5 - k) % 5 = 5 - k + j := by omega
    simp [hjk, hmod]
  · have hmod : (j + 5 - k) % 5 = j - k := by omega
    have hout : h.getLsbD (5 - k + j) = false := BitVec.getLsbD_of_ge _ _ (by omega)
    simp [hj, hjk, hmod, hout]

/-- Both halves of a rotated value, by bit. -/
theorem getLsbD_rotl5x2 (v : BitVec 10) {k j : Nat} (hk : k < 5) (hj : j < 5) :
    (rotl5x2 v k).getLsbD j = v.getLsbD ((j + 5 - k) % 5) ∧ (rotl5x2 v k).getLsbD (5 + j) = v.getLsbD (5 + (j + 5 - k) % 5) := by
  have hmod : (j + 5 - k) % 5 < 5 := Nat.mod_lt _ (by decide)
  constructor
  · rw [rotl5x2, BitVec.getLsbD_append, if_pos hj, getLsbD_rotl5 _ hk hj]
    simp [hmod]
  · rw [rotl5x2, BitVec.getLsbD_append, if_neg (by omega), Nat.add_sub_cancel_left, getLsbD_rotl5 _ hk hj]
    simp [hmod]

/-! ### S-boxes -/

/-- The 16 groups one by one: the row and the column are the integers of R123. -/
theorem sel0_eq (g : BitVec 4) : sel0 g = (Fin.ofNat 4 (rowOf g.toNat), Fin.ofNat 4 (colOf g.toNat)) := by
  revert g
  decide

theorem sbox0_toNat (c : Config) (g : BitVec 4) : (sbox0 c g).toNat = box0 c g.toNat := by
  rw [sbox0, sel0_eq]
  rfl

theorem sbox1_toNat (c : Config) (g : BitVec 4) : (sbox1 c g).toNat = box1 c g.toNat := by
  have hg : g.toFin = Fin.ofNat 16 g.toNat := Fin.ext (Nat.mod_eq_of_lt g.isLt).symm
  rw [sbox1, hg]
  rfl

end Sys2Proof.Machine
end

section
/-! The results of the Unit A commands (R131 to R146): the template of a command, the functions above carried over to 64-bit
registers, and each command's result. -/

namespace Sys2Proof.Machine

open Sys2Proof

/-! ### The template -/

theorem operandsFit_src {i : Instr} {n : Nat} (hw : srcWidth i = some n) (hsub : readsSubkey i = false) (hkey : readsKey i = false)
    (a : UnitA) : OperandsFit i a ↔ Fits a.src n := by
  simp [OperandsFit, hw, hsub, hkey]

theorem operandsFit_srcSubkey {i : Instr} (hw : srcWidth i = some 8) (hsub : readsSubkey i = true) (hkey : readsKey i = false)
    (a : UnitA) : OperandsFit i a ↔ Fits a.src 8 ∧ Fits a.subkey 8 := by
  simp [OperandsFit, hw, hsub, hkey]

theorem operandsFit_srcKey {i : Instr} (hw : srcWidth i = some 8) (hsub : readsSubkey i = false) (hkey : readsKey i = true)
    (a : UnitA) : OperandsFit i a ↔ Fits a.src 8 ∧ Fits a.key 10 := by
  simp [OperandsFit, hw, hsub, hkey]

theorem operandsFit_subkeys (a : UnitA) : OperandsFit .subkeys a ↔ Fits a.key 10 := by
  simp [OperandsFit, srcWidth, readsSubkey, readsKey]

/-- SUBKEYS writes both subkeys, or raises CONTRACT (R144). -/
theorem execSubkeys_eq (s : State) :
    execSubkeys s = if Fits s.unitA.key 10 then
      .next (okA s { s.unitA with
        k1 := zext (subkeys s.cfg (low 10 s.unitA.key)).1, k2 := zext (subkeys s.cfg (low 10 s.unitA.key)).2 })
      else .next (errA s .contract) := rfl

/-- What R131 says of one command in one state. -/
def MeetsTemplate (i : Instr) (s : State) : Prop :=
  (OperandsFit i s.unitA → ∃ res k1 k2,
    exec i s = .next (okA s { s.unitA with res := res, k1 := k1, k2 := k2 }) ∧
    (i = .subkeys → res = s.unitA.res) ∧ (i ≠ .subkeys → k1 = s.unitA.k1 ∧ k2 = s.unitA.k2)) ∧
  (¬OperandsFit i s.unitA → exec i s = .next (errA s .contract))

/-- A command that writes result registers when its operands fit, and else raises CONTRACT, meets the template. -/
theorem meetsTemplate_of_exec {i : Instr} {s : State} {p : Prop} [Decidable p] {res k1 k2 : Word}
    (hfit : OperandsFit i s.unitA ↔ p) (hres : i = .subkeys → res = s.unitA.res)
    (hkeys : i ≠ .subkeys → k1 = s.unitA.k1 ∧ k2 = s.unitA.k2)
    (he : exec i s = if p then .next (okA s { s.unitA with res := res, k1 := k1, k2 := k2 }) else .next (errA s .contract)) :
    MeetsTemplate i s :=
  ⟨fun h => ⟨res, k1, k2, he.trans (if_pos (hfit.mp h)), hres, hkeys⟩, fun h => he.trans (if_neg (mt hfit.mpr h))⟩

/-- Settles O16: every command but SUBKEYS has one of the three shapes that write A_RES. -/
theorem unitATemplate : Obligations.UnitATemplate := by
  intro i s hu
  show MeetsTemplate i s
  cases i with
  | permP10 | permP8 | permIP | permFP | permEP | permP4 | rotl5_0 | rotl5_1 | rotl5_2 | rotl5_3 | rotl5_4 | sboxS0 | sboxS1
  | swap => exact meetsTemplate_of_exec (operandsFit_src rfl rfl rfl _) nofun (fun _ => ⟨rfl, rfl⟩) rfl
  | feistel | fk =>
    exact meetsTemplate_of_exec (operandsFit_srcSubkey rfl rfl rfl _) nofun (fun _ => ⟨rfl, rfl⟩) (srcSubkeyToRes_eq _ s)
  | encrypt | decrypt =>
    exact meetsTemplate_of_exec (operandsFit_srcKey rfl rfl rfl _) nofun (fun _ => ⟨rfl, rfl⟩) (srcKeyToRes_eq _ s)
  | subkeys => exact meetsTemplate_of_exec (operandsFit_subkeys _) (fun _ => rfl) (absurd rfl) (execSubkeys_eq s)
  | isprime | gencand | genprime | gcd | egcd | modinv | modexp | keygen | encmsg | decmsg => cases hu

/-! ### The shapes when the operands fit -/

theorem srcToRes_of_fits {n m : Nat} {s : State} (h : Fits s.unitA.src n) (f : BitVec n → BitVec m) :
    srcToRes n f s = .next (okA s { s.unitA with res := zext (f (low n s.unitA.src)) }) :=
  (srcToRes_eq n f s).trans (if_pos h)

theorem srcSubkeyToRes_of_fits {m : Nat} {s : State} (hv : Fits s.unitA.src 8) (hsk : Fits s.unitA.subkey 8)
    (f : BitVec 8 → BitVec 8 → BitVec m) :
    srcSubkeyToRes f s = .next (okA s { s.unitA with res := zext (f (low 8 s.unitA.subkey) (low 8 s.unitA.src)) }) :=
  (srcSubkeyToRes_eq f s).trans (if_pos ⟨hv, hsk⟩)

theorem srcKeyToRes_of_fits {s : State} (hv : Fits s.unitA.src 8) (hk : Fits s.unitA.key 10)
    (f : BitVec 8 → BitVec 10 → BitVec 8) :
    srcKeyToRes f s = .next (okA s { s.unitA with res := zext (f (low 8 s.unitA.src) (low 10 s.unitA.key)) }) :=
  (srcKeyToRes_eq f s).trans (if_pos ⟨hv, hk⟩)

theorem execSubkeys_of_fits {s : State} (h : Fits s.unitA.key 10) :
    execSubkeys s = .next (okA s { s.unitA with
      k1 := zext (subkeys s.cfg (low 10 s.unitA.key)).1, k2 := zext (subkeys s.cfg (low 10 s.unitA.key)).2 }) :=
  (execSubkeys_eq s).trans (if_pos h)

/-! ### The functions on registers -/

theorem getLsbD_zext {n : Nat} (v : BitVec n) {j : Nat} (hj : j < 64) : (zext v).getLsbD j = v.getLsbD j := by
  simp [zext, hj]

theorem zext_xor {n : Nat} (v w : BitVec n) : zext (v ^^^ w) = zext v ^^^ zext w := BitVec.setWidth_xor

theorem permutes_zext {n m : Nat} (t : PermTable n m) (v : BitVec n) (hn : n ≤ 64 := by decide) (hm : m ≤ 64 := by decide) :
    Permutes t (zext v) (zext (permute t v)) := by
  refine ⟨zext_lt _ le_rfl hm, fun i => ?_⟩
  have hi := i.isLt
  have ht := (t.get i).isLt
  rw [getLsbD_zext _ (by omega), getLsbD_zext _ (by omega)]
  exact permute_getMsb t v i

theorem rotates_zext {k : Nat} (v : BitVec 10) (hk : k < 5 := by decide) : Rotates k (zext v) (zext (rotl5x2 v k)) := by
  refine ⟨zext_lt _ le_rfl (by decide), fun j hj => ?_⟩
  have hmod : (j + 5 - k) % 5 < 5 := Nat.mod_lt _ (by decide)
  simp only [getLsbD_zext _ (show j < 64 by omega), getLsbD_zext _ (show 5 + j < 64 by omega),
    getLsbD_zext _ (show (j + 5 - k) % 5 < 64 by omega), getLsbD_zext _ (show 5 + (j + 5 - k) % 5 < 64 by omega)]
  exact getLsbD_rotl5x2 v hk hj

/-- F of R126 in the integers of the S-boxes: the halves of the expanded, keyed right half are the groups looked up. -/
theorem roundValue_zext (c : Config) (sk v : BitVec 8) : RoundValue c (zext sk) (zext v) (zext (roundF c sk v)) := by
  have hv : BitVec.ofNat 64 ((zext v).toNat % 16) = zext (rightHalf v) := by
    rw [toNat_zext _ (by decide), ← rightHalf_toNat, zext_eq_ofNat _ (by decide)]
  have hbox (t : BitVec 8) : BitVec.ofNat 64 (4 * box0 c ((zext t).toNat / 16) + box1 c ((zext t).toNat % 16)) =
      zext (sbox0 c (leftHalf t) ++ sbox1 c (rightHalf t)) := by
    rw [toNat_zext _ (by decide), ← leftHalf_toNat, ← rightHalf_toNat, ← sbox0_toNat, ← sbox1_toNat,
      zext_eq_ofNat _ (by decide), append_toNat]
    rfl
  refine ⟨zext (permute c.tblEP (rightHalf v)), ?_, ?_⟩
  · rw [hv]
    exact permutes_zext _ _
  · rw [← zext_xor, hbox]
    exact permutes_zext _ _

/-! ### The results of the commands -/

theorem permCommand_of_exec {i : Instr} {n m : Nat} {t : PermTable n m} {s : State} (he : exec i s = srcToRes n (permute t) s)
    (hn : n ≤ 64 := by decide) (hm : m ≤ 64 := by decide) : PermCommand i t s := by
  refine fun h => ⟨_, ?_, he.trans (srcToRes_of_fits h _)⟩
  have hp := permutes_zext t (low n s.unitA.src) hn hm
  rwa [zext_low _ h hn] at hp

/-- Settles O17: the six commands are one shape over their tables. -/
theorem permCommandsPermute : Obligations.PermCommandsPermute := fun _ =>
  ⟨permCommand_of_exec rfl, permCommand_of_exec rfl, permCommand_of_exec rfl, permCommand_of_exec rfl, permCommand_of_exec rfl,
    permCommand_of_exec rfl⟩

theorem rotateCommand_of_exec {i : Instr} {k : Nat} {s : State} (he : exec i s = srcToRes 10 (rotl5x2 · k) s)
    (hk : k < 5 := by decide) : RotateCommand i k s := by
  refine fun h => ⟨_, ?_, he.trans (srcToRes_of_fits h _)⟩
  have hr := rotates_zext (low 10 s.unitA.src) hk
  rwa [zext_low _ h (by decide)] at hr

/-- Settles O19: the five commands are one shape over their amounts. -/
theorem rotl5RotatesEachHalf : Obligations.Rotl5RotatesEachHalf := fun _ =>
  ⟨rotateCommand_of_exec rfl, rotateCommand_of_exec rfl, rotateCommand_of_exec rfl, rotateCommand_of_exec rfl,
    rotateCommand_of_exec rfl⟩

/-- A command of the A_SRC shape whose function is known as an integer function. -/
theorem srcToRes_of_toNat {n m : Nat} {s : State} {f : BitVec n → BitVec m} {g : Nat → Nat} (h : Fits s.unitA.src n)
    (hf : ∀ v, (f v).toNat = g v.toNat) (hm : m ≤ 64 := by decide) :
    srcToRes n f s = .next (okA s { s.unitA with res := BitVec.ofNat 64 (g s.unitA.src.toNat) }) := by
  rw [srcToRes_of_fits h, zext_eq_ofNat _ hm, hf, toNat_low h]

/-- Settles O20: as integer functions, the two boxes are `box0` and `box1`. -/
theorem sboxCommandsLookUp : Obligations.SboxCommandsLookUp := fun s h =>
  ⟨srcToRes_of_toNat h (sbox0_toNat s.cfg), srcToRes_of_toNat h (sbox1_toNat s.cfg)⟩

/-- Settles O21: the exchange as an integer function of the block. -/
theorem swapExchangesHalves : Obligations.SwapExchangesHalves := fun _ h =>
  srcToRes_of_toNat (g := fun v => 16 * (v % 16) + v / 16) h swapHalves_toNat

/-- Settles O22: the f of FEISTEL is the F that FK puts on the left half. -/
theorem feistelAndFkComputeTheRound : Obligations.FeistelAndFkComputeTheRound := by
  intro s hv hsk
  have hround := roundValue_zext s.cfg (low 8 s.unitA.subkey) (low 8 s.unitA.src)
  rw [zext_low _ hsk (by decide), zext_low _ hv (by decide)] at hround
  refine ⟨_, hround, srcSubkeyToRes_of_fits hv hsk _, (srcSubkeyToRes_of_fits hv hsk _).trans ?_⟩
  rw [zext_eq_ofNat (fK _ _ _) (by decide), fK_toNat, toNat_low hv, toNat_zext _ (by decide)]

/-- Settles O23: each stage of the key schedule is a permutation or a rotation of the register before it. -/
theorem subkeysRunsTheKeySchedule : Obligations.SubkeysRunsTheKeySchedule := by
  intro s hk
  have hP10 := permutes_zext s.cfg.tblP10 (low 10 s.unitA.key)
  rw [zext_low _ hk (by decide)] at hP10
  exact ⟨_, _, _, _, _, hP10, rotates_zext _, permutes_zext _ _, rotates_zext _,
    permutes_zext _ _, execSubkeys_of_fits hk⟩

/-! ### Chains of commands -/

theorem resAfter_of_exec {i : Instr} {s t : State} (h : exec i s = .next t) : resAfter i s = some t.unitA.res := by
  rw [resAfter, h]

/-- A command of the A_SRC shape on a block that a command before it has written. -/
theorem resAfter_src {i : Instr} {m : Nat} {f : BitVec 8 → BitVec m} {x : BitVec 8} {k : Word} {s : State}
    (he : exec i (loadA (zext x) k s) = srcToRes 8 f (loadA (zext x) k s)) :
    resAfter i (loadA (zext x) k s) = some (zext (f x)) := by
  have hx : Fits (loadA (zext x) k s).unitA.src 8 := fits_zext x le_rfl (by decide)
  rw [resAfter_of_exec (he.trans (srcToRes_of_fits hx f))]
  exact congrArg (fun v => some (zext (f v))) (low_zext x (by decide))

/-- FK on a block and a subkey that commands before it have written. -/
theorem resAfter_fk (k x : BitVec 8) (s : State) :
    resAfter .fk (loadA (zext x) (zext k) s) = some (zext (fK s.cfg k x)) := by
  have hx : Fits (loadA (zext x) (zext k) s).unitA.src 8 := fits_zext x le_rfl (by decide)
  have hk : Fits (loadA (zext x) (zext k) s).unitA.subkey 8 := fits_zext k le_rfl (by decide)
  rw [resAfter_of_exec (i := .fk) (srcSubkeyToRes_of_fits hx hk (fK s.cfg))]
  exact congrArg₂ (fun k v => some (zext (fK s.cfg k v))) (low_zext k (by decide)) (low_zext x (by decide))

/-- Settles O24: each command of the chain applies the function that stands at its place in `rounds`. -/
theorem encryptAndDecryptAreTheCommandChain : Obligations.EncryptAndDecryptAreTheCommandChain := fun s hv hk =>
  ⟨_, _, _, _, _, _, _, _, _, _, _, execSubkeys_of_fits hk, resAfter_of_exec (srcToRes_of_fits hv _),
    resAfter_fk _ _ s, resAfter_src rfl, resAfter_fk _ _ s, resAfter_src rfl,
    resAfter_fk _ _ s, resAfter_src rfl, resAfter_fk _ _ s, resAfter_src rfl,
    srcKeyToRes_of_fits hv hk _, srcKeyToRes_of_fits hv hk _⟩

/-- Settles O25: the ciphertext register holds the block ENCRYPT computed, and the rounds with K2 first undo it. -/
theorem decryptInvertsEncrypt : Obligations.DecryptInvertsEncrypt := by
  intro s hT hv hk
  refine ⟨_, zext_lt _ le_rfl (by decide), srcKeyToRes_of_fits hv hk _, fun t hcfg hkey hsrc => ?_⟩
  have hx : Fits t.unitA.src 8 := hsrc ▸ fits_zext _ le_rfl (by decide)
  refine (srcKeyToRes_of_fits hx (hkey ▸ hk) _).trans ?_
  rw [hsrc, hcfg, hkey, low_zext _ (by decide), decryptBlock_encryptBlock hT, zext_low _ hv (by decide)]

end Sys2Proof.Machine
end

section
/-! The integer functions of Unit B as rules R183, R192 and R196 state them: trial division, Euclid's recursion with the sizes of its
coefficients, and the key pair of two odd primes. -/

namespace Sys2Proof.Machine

open Sys2Proof

/-! ### Trial division -/

theorem isPrime_iff (n : Nat) : isPrime n = true ↔ Nat.Prime n := by
  refine ⟨prime_of_isPrime, fun hn => ?_⟩
  simp only [isPrime, Bool.and_eq_true, decide_eq_true_eq, List.all_eq_true, List.mem_range', bne_iff_ne, isqrt_eq_sqrt]
  refine ⟨hn.one_lt, ?_⟩
  rintro _ ⟨k, hk, rfl⟩ hmod
  exact (Nat.prime_def_le_sqrt.mp hn).2 _ (by omega) (by omega) (Nat.dvd_of_mod_eq_zero hmod)

/-- Settles O27: trial division passes a prime, whose divisors are outside its range, and nothing else. -/
theorem trialDivisionIsPrimality : Obligations.TrialDivisionIsPrimality := isPrime_iff

/-! ### Euclid's algorithm -/

theorem egcdLoop_succ {r1 : Nat} (h : r1 ≠ 0) (k r0 : Nat) (s0 s1 t0 t1 : Int) :
    egcdLoop (k + 1) r0 r1 s0 s1 t0 t1 =
      egcdLoop k r1 (r0 % r1) s1 (s0 - (r0 / r1 : Nat) * s1) t1 (t0 - (r0 / r1 : Nat) * t1) := if_neg h

theorem egcd_zero (a : Nat) : egcd a 0 = (a, 1, 0) := rfl

/-- The loop is linear in the coefficients it starts from: it combines them by the coefficients egcd gives (R192). -/
theorem egcdLoop_eq_egcd {k r0 r1 : Nat} (hk : r1 ≤ k) (s0 s1 t0 t1 : Int) :
    egcdLoop k r0 r1 s0 s1 t0 t1 = ((egcd r0 r1).1, s0 * (egcd r0 r1).2.1 + s1 * (egcd r0 r1).2.2,
      t0 * (egcd r0 r1).2.1 + t1 * (egcd r0 r1).2.2) := by
  induction r1 using Nat.strong_induction_on generalizing k r0 s0 s1 t0 t1 with
  | _ r1 ih =>
    cases r1 with
    | zero => simp [egcdLoop_zero, egcd_zero]
    | succ r =>
      obtain ⟨k, rfl⟩ := Nat.exists_eq_add_of_le' (Nat.one_le_of_lt hk)
      have hlt : r0 % (r + 1) < r + 1 := Nat.mod_lt _ r.succ_pos
      rw [egcd, egcdLoop_succ r.succ_ne_zero, egcdLoop_succ r.succ_ne_zero, ih _ hlt (by omega), ih _ hlt (by omega)]
      simp only [Prod.mk.injEq, true_and]
      constructor <;> ring

/-- A turn of the loop takes egcd(a, b) to egcd(b, a mod b) (R192). -/
theorem egcd_of_ne_zero (a : Nat) {b : Nat} (h : b ≠ 0) :
    egcd a b = ((egcd b (a % b)).1, (egcd b (a % b)).2.2,
      (egcd b (a % b)).2.1 - (a / b : Nat) * (egcd b (a % b)).2.2) := by
  obtain ⟨k, rfl⟩ := Nat.exists_eq_add_one_of_ne_zero h
  have hlt : a % (k + 1) < k + 1 := Nat.mod_lt _ k.succ_pos
  rw [egcd, egcdLoop_succ h, egcdLoop_eq_egcd (by omega)]
  simp only [Prod.mk.injEq, true_and]
  constructor <;> ring

theorem egcd_of_dvd {a b : Nat} (h : b ≠ 0) (hd : b ∣ a) : egcd a b = (b, 0, 1) := by
  rw [egcd_of_ne_zero a h, Nat.mod_eq_zero_of_dvd hd, egcd_zero]
  simp

/-- Unless b divides a, the coefficients are at most half the other operand in magnitude. -/
theorem egcd_half_bounds {a b : Nat} (hb : b ≠ 0) (h : ¬b ∣ a) :
    2 * (egcd a b).2.1.natAbs ≤ b ∧ 2 * (egcd a b).2.2.natAbs ≤ a := by
  induction b using Nat.strong_induction_on generalizing a with
  | _ b ih =>
    have hlt : a % b < b := Nat.mod_lt _ (Nat.pos_of_ne_zero hb)
    have hr : a % b ≠ 0 := fun e => h (Nat.dvd_of_mod_eq_zero e)
    have ha : a / b * b + a % b = a := Nat.div_add_mod' a b
    rw [egcd_of_ne_zero a hb]
    by_cases hd : a % b ∣ b
    · have hq : a / b * 2 ≤ a / b * b := Nat.mul_le_mul_left _ (by omega)
      rw [egcd_of_dvd hr hd]
      simp only [mul_one, zero_sub, Int.natAbs_neg, Int.natAbs_natCast, Int.natAbs_one]
      omega
    · obtain ⟨hx, hy⟩ := ih _ hlt hr hd
      refine ⟨hy, ?_⟩
      calc 2 * ((egcd b (a % b)).2.1 - (a / b : Nat) * (egcd b (a % b)).2.2).natAbs
          ≤ 2 * ((egcd b (a % b)).2.1.natAbs + a / b * (egcd b (a % b)).2.2.natAbs) :=
            Nat.mul_le_mul_left _ ((Int.natAbs_sub_le _ _).trans_eq (by rw [Int.natAbs_mul, Int.natAbs_natCast]))
        _ = 2 * (egcd b (a % b)).2.1.natAbs + a / b * (2 * (egcd b (a % b)).2.2.natAbs) := by ring
        _ ≤ a % b + a / b * b := Nat.add_le_add hx (Nat.mul_le_mul_left _ hy)
        _ = a := by omega

/-- The coefficients for 64-bit operands fit 64-bit two's complement (R192). -/
theorem egcd_natAbs_lt {a b : Nat} (ha : a < 2 ^ 64) (hb : b < 2 ^ 64) :
    (egcd a b).2.1.natAbs < 2 ^ 63 ∧ (egcd a b).2.2.natAbs < 2 ^ 63 := by
  by_cases h0 : b = 0
  · subst h0; simp [egcd_zero]
  by_cases hd : b ∣ a
  · simp [egcd_of_dvd h0 hd]
  · obtain ⟨hx, hy⟩ := egcd_half_bounds h0 hd
    omega

/-- Settles O31: the recursion from the loop's linearity, the identity from its invariant, the sizes from the recursion. -/
theorem egcdFollowsEuclid : Obligations.EgcdFollowsEuclid := by
  intro a b
  obtain ⟨hg, hbezout⟩ := egcd_spec a b
  exact ⟨egcd_zero a, egcd_of_ne_zero a, hg, by rw [hbezout, hg], egcd_natAbs_lt⟩

/-! ### Key pairs -/

/-- There is an exponent below the limit for every even phi that fits: phi times a number, plus 1 (R198). -/
theorem exists_exponent {w phi : Nat} (hw : 18 ≤ w) (hpos : phi ≠ 0) (heven : 2 ∣ phi) (hlt : phi < 2 ^ w - 1) :
    ∃ e, e % 2 = 1 ∧ 65537 ≤ e ∧ e < 2 ^ w ∧ Nat.Coprime e phi := by
  have hw18 : 2 ^ 18 ≤ 2 ^ w := Nat.pow_le_pow_right (by decide) hw
  have hdiv := Nat.div_add_mod 65536 phi
  have hmod := Nat.mod_lt 65536 (Nat.pos_of_ne_zero hpos)
  refine ⟨phi * (65536 / phi + 1) + 1, ?_, ?_, ?_, ?_⟩
  · have := heven.mul_right (65536 / phi + 1)
    omega
  · rw [Nat.mul_add]
    omega
  · rw [Nat.mul_add]
    by_cases hle : phi ≤ 65536
    · omega
    · rw [Nat.div_eq_of_lt (by omega)]
      omega
  · simp

theorem mul_lt_two_pow {w l p q : Nat} (hl : l ≤ w / 2) (hp : p < 2 ^ l) (hq : q < 2 ^ l) : p * q < 2 ^ w := by
  calc p * q < 2 ^ l * 2 ^ l := Nat.mul_lt_mul'' hp hq
    _ = 2 ^ (l + l) := (pow_add 2 l l).symm
    _ ≤ 2 ^ w := Nat.pow_le_pow_right (by decide) (by omega)

/-- The key pair of two odd primes of at most half the width: the exponent search is never exhausted (R196 to R199). -/
theorem derive_keyPair {w l p q : Nat} (hw : 18 ≤ w) (hl : l ≤ w / 2) (hp : p < 2 ^ l) (hq : q < 2 ^ l)
    (hp1 : 1 < p) (hq1 : 1 < q) (hodd : p % 2 = 1) :
    ∃ n phi e d, derive w p q = some (n, phi, e, d) ∧ KeyPairOf w p q n phi e d ∧ n < 2 ^ w := by
  have hn : p * q < 2 ^ w := mul_lt_two_pow hl hp hq
  have hphi : (p - 1) * (q - 1) < p * q := Nat.mul_lt_mul'' (by omega) (by omega)
  have hpos : (p - 1) * (q - 1) ≠ 0 := Nat.mul_ne_zero (by omega) (by omega)
  have heven : 2 ∣ (p - 1) * (q - 1) := Dvd.dvd.mul_right (by omega) _
  obtain ⟨e', hodd', hge', hlt', hcop'⟩ := exists_exponent hw hpos heven (by omega)
  obtain ⟨e, hfind, heodd, hge, hlt, hcop, hleast⟩ :=
    findExponent_spec ((p - 1) * (q - 1)) (2 ^ w) (2 ^ w) 65537 ⟨e', hodd', hge', hlt', by omega, hcop'⟩
  obtain ⟨hd, hinv⟩ := modinv_spec e _ (Nat.le_of_dvd (Nat.pos_of_ne_zero hpos) heven) hcop
  refine ⟨_, _, e, _, by rw [derive, hfind]; rfl, ⟨rfl, rfl, ⟨heodd, hge, hlt, hcop⟩, hleast, hd, ?_⟩, hn⟩
  rwa [mul_comm]

end Sys2Proof.Machine
end

section
/-! The results of the integer commands of Unit B that complete in one step (R182 to R195). -/

namespace Sys2Proof.Machine

open Sys2Proof

/-! ### The shapes of the commands -/

/-- Two checks in a row that raise the same error are one check. -/
theorem require_require {p q : Prop} [Decidable p] [Decidable q] (u : UnitId) (c : ErrCode) (s : State) (go : Result) :
    require p u c s (require q u c s go) = require (p ∧ q) u c s go := by
  by_cases hp : p <;> by_cases hq : q <;> simp [require, hp, hq]

theorem execGcd_eq (s : State) :
    execGcd s = require (Fits s.unitB.x s.cfg.pkWidth ∧ Fits s.unitB.y s.cfg.pkWidth) .b .contract s
      (completeB (resultB (Nat.gcd s.unitB.x.toNat s.unitB.y.toNat)) s) := require_require ..

theorem execEgcd_eq (s : State) :
    execEgcd s = require (Fits s.unitB.x s.cfg.pkWidth ∧ Fits s.unitB.y s.cfg.pkWidth) .b .contract s
      (completeB (writeEgcd (egcd s.unitB.x.toNat s.unitB.y.toNat)) s) := require_require ..

theorem execModinv_eq (s : State) :
    execModinv s =
      require (Fits s.unitB.x s.cfg.pkWidth ∧ Fits s.unitB.y s.cfg.pkWidth ∧ 2 ≤ s.unitB.y.toNat) .b .contract s
        (require (Nat.gcd s.unitB.x.toNat s.unitB.y.toNat = 1) .b .noInverse s
          (completeB (resultB (modinv s.unitB.x.toNat s.unitB.y.toNat)) s)) := by
  unfold execModinv
  rw [require_require (p := Fits s.unitB.y _), require_require]

/-! ### The results -/

/-- Settles O28: the result is 1 exactly when trial division succeeds. -/
theorem isprimeReportsPrimality : Obligations.IsprimeReportsPrimality := by
  refine fun s => ⟨rfl, fun h => ⟨_, require_pos h .., fun hp => ?_, fun hp => ?_⟩, fun h => require_neg h ..⟩
  · rw [if_pos ((isPrime_iff _).mpr hp)]; rfl
  · rw [if_neg (mt (isPrime_iff _).mp hp)]; rfl

/-- Settles O29: the candidate of the model has the bits of R185. -/
theorem gencandForcesTopAndBottomBit : Obligations.GencandForcesTopAndBottomBit := by
  intro s hc
  obtain ⟨⟨⟨-, -, h64⟩, -⟩, -⟩ := hc
  exact ⟨fun h1 hl => ⟨_, candidate_candidateOf _ s.entropy h1 (hl.trans h64), require_pos ⟨h1, hl⟩ ..⟩,
    fun hl => require_neg (p := 1 ≤ bitLength s ∧ bitLength s ≤ s.cfg.pkWidth) (by unfold bitLength; omega) ..⟩

/-- The gcd of two registers fits a register. -/
theorem toNat_reg64_gcd (x y : Word) : (reg64 (Nat.gcd x.toNat y.toNat)).toNat = Nat.gcd x.toNat y.toNat :=
  toNat_reg64 (gcd_lt_of_lt x.isLt y.isLt)

/-- Settles O30: no gcd of two registers is cut. -/
theorem gcdWritesTheGcd : Obligations.GcdWritesTheGcd := fun s =>
  ⟨rfl, fun h => ⟨_, (execGcd_eq s).trans (require_pos h ..), toNat_reg64_gcd _ _⟩,
    fun h => (execGcd_eq s).trans (require_neg h ..)⟩

/-- A coefficient below 2^63 in magnitude is held exactly in two's complement (R193). -/
theorem toInt_ofInt_of_natAbs_lt {z : Int} (h : z.natAbs < 2 ^ 63) : (BitVec.ofInt 64 z).toInt = z :=
  BitVec.toInt_ofInt_eq_self (by decide) (by omega) (by omega)

/-- Settles O32: the gcd fits a register and the coefficients fit two's complement, so the registers hold what egcd gives. -/
theorem egcdWritesBezoutCoefficients : Obligations.EgcdWritesBezoutCoefficients := by
  intro s
  obtain ⟨hg, hbezout⟩ := egcd_spec s.unitB.x.toNat s.unitB.y.toNat
  obtain ⟨hx, hy⟩ := egcd_natAbs_lt s.unitB.x.isLt s.unitB.y.isLt
  refine ⟨rfl, fun h => ⟨_, _, _, (execEgcd_eq s).trans (require_pos h ..), ?_, ?_⟩,
    fun h => (execEgcd_eq s).trans (require_neg h ..)⟩
  · rw [toInt_ofInt_of_natAbs_lt hx, toInt_ofInt_of_natAbs_lt hy, hg, toNat_reg64_gcd, ← hg]
  · rw [toInt_ofInt_of_natAbs_lt hx, toInt_ofInt_of_natAbs_lt hy, hg, toNat_reg64_gcd, hbezout]

/-- Settles O33: the inverse is below the modulus, so the register holds it. -/
theorem modinvWritesTheInverse : Obligations.ModinvWritesTheInverse := by
  intro s
  refine ⟨rfl, fun h => ?_, fun h => (execModinv_eq s).trans (require_neg h ..)⟩
  have he := (execModinv_eq s).trans (require_pos h ..)
  refine ⟨fun hg => ⟨_, he.trans (require_pos hg ..), ?_⟩, fun hg => he.trans (require_neg hg ..)⟩
  have hinv := modinv_spec _ _ h.2.2 hg
  rwa [toNat_reg64 (hinv.1.trans s.unitB.y.isLt)]

end Sys2Proof.Machine
end

section
/-! The prime searches GENPRIME and KEYGEN: what one attempt does with the candidate of its draw (R187 to R189, R196 to R199, R326). -/

namespace Sys2Proof.Machine

open Sys2Proof

/-! ### An attempt -/

/-- The candidate of an attempt is the one of its draw (R185, R187). -/
theorem attemptCandidate_eq {s : State} {c : Nat} (h1 : 1 ≤ bitLength s) (h64 : bitLength s ≤ 64)
    (hc : CandidateOf (bitLength s) s.entropy c) : attemptCandidate s = c :=
  candidateOf_unique (candidate_candidateOf _ s.entropy h1 h64) hc

/-- The three outcomes of an attempt: a prime, the limit of attempts reached, or another attempt (R187, R188). -/
theorem attempt_outcomes (cfg : Config) (c n : Nat) (found exhausted again : Result) :
    let attempt := if isPrime c then found else if LimitReached cfg n then exhausted else again
    (Nat.Prime c → attempt = found) ∧
    (¬Nat.Prime c → cfg.attemptLimit ≠ 0 → n = cfg.attemptLimit → attempt = exhausted) ∧
    (¬Nat.Prime c → cfg.attemptLimit = 0 ∨ n ≠ cfg.attemptLimit → attempt = again) := by
  simp only [isPrime_iff]
  refine ⟨fun hp => if_pos hp, fun hp h0 hn => ?_, fun hp hn => ?_⟩
  · rw [if_neg hp, if_pos ⟨h0, hn⟩]
  · rw [if_neg hp, if_neg (by tauto)]

/-! ### GENPRIME -/

/-- With a bit length in range a step of GENPRIME is an attempt, the first step included (R188). -/
theorem execGenprime_eq_attempt {s : State} (h1 : 1 ≤ bitLength s) (hl : bitLength s ≤ s.cfg.pkWidth) :
    execGenprime s = genprimeAttempt (genprimeAttempts s) s := by
  unfold execGenprime genprimeAttempts
  split
  next w before hp => simp only [hp]
  next hp =>
    rw [require_pos ⟨h1, hl⟩]
    split
    next w k hk => exact absurd hk (hp w k)
    all_goals rfl

/-- Settles O35: in range, a step of GENPRIME is an attempt with the candidate of its draw. -/
theorem genprimeAttempt_meets_spec : Obligations.GenprimeAttempt := by
  intro s c hc h1 hl hcand
  obtain ⟨⟨⟨-, -, h64⟩, -⟩, -⟩ := hc
  rw [show exec .genprime s = genprimeAttempt (genprimeAttempts s) s from execGenprime_eq_attempt h1 hl,
    genprimeAttempt, attemptCandidate_eq h1 (hl.trans h64) hcand]
  exact attempt_outcomes s.cfg c _ _ _ _

/-- The only candidate of one bit is 1 (R189). -/
theorem attemptCandidate_of_length_one {s : State} (hl : s.unitB.l = 1) : attemptCandidate s = 1 := by
  have h1 : bitLength s = 1 := congrArg BitVec.toNat hl
  obtain ⟨-, hlt, hodd⟩ := attemptCandidate_bounds (s := s) (by omega) (by omega)
  rw [h1] at hlt
  omega

/-- With one bit and no limit every attempt of GENPRIME fails and leaves the unit Busy (R189). -/
theorem genprimeAttempt_of_length_one {s : State} (hl : s.unitB.l = 1) (hlim : s.cfg.attemptLimit = 0) (before : Nat) :
    genprimeAttempt before s = stayBusy (.prime (before + 1)) s := by
  rw [genprimeAttempt, attemptCandidate_of_length_one hl]
  exact (attempt_outcomes s.cfg 1 _ _ _ _).2.2 Nat.not_prime_one (.inl hlim)

theorem step_unitB_busy {s : State} {r : Word} {rest : List Turn} {i : Instr} {search : Search} (hi : i.unit = .b)
    (hs : s.sched = .unitB r :: rest) (hp : s.unitB.phase = .busy (encode i) search) :
    step s = exec i { s with sched := rest, entropy := r } := by
  rw [step_of_sched hs, ← runWord_encode, hi]
  simp only [takeTurn, unitBTurn, hp]

/-- Settles O40: the only candidate of one bit is 1, which is no prime, and there is no limit to reach. -/
theorem genprimeOfLengthOneHangs : Obligations.GenprimeOfLengthOneHangs := by
  intro s r rest k hlim hl hp hs
  rw [step_unitB_busy rfl hs hp]
  show execGenprime _ = _
  unfold execGenprime
  rw [hp]
  refine (genprimeAttempt_of_length_one (s := { s with sched := rest, entropy := r }) hl hlim k).trans ?_
  rw [stayBusy_eq, UnitB.latched, hp]

/-! ### KEYGEN -/

/-- With a bit length in range a step of KEYGEN outside its second stage is an attempt for p, the first step included (R197). -/
theorem execKeygen_eq_attemptP {s : State} (hs : inSecondStage s = false) (h1 : 1 ≤ bitLength s)
    (hl : bitLength s ≤ s.cfg.pkWidth / 2) :
    execKeygen s = keygenAttemptP (keygenAttempts s) (keygenTotal s) s := by
  unfold inSecondStage at hs
  unfold execKeygen keygenAttempts keygenTotal
  split
  next w before total hp => simp only [hp]
  next w p before total hp => simp [hp] at hs
  next hp hq =>
    rw [require_pos ⟨h1, hl⟩]
    split
    next w k total hk => exact absurd hk (hp w k total)
    all_goals rfl

theorem execKeygen_eq_attemptQ {s : State} {w : Word} {p before total : Nat}
    (hp : s.unitB.phase = .busy w (.keyQ p before total)) : execKeygen s = keygenAttemptQ p before total s := by
  unfold execKeygen
  rw [hp]

/-- Settles O37: in range, a step of KEYGEN's first stage is an attempt with the candidate of its draw. -/
theorem keygenFirstStageAttempt : Obligations.KeygenFirstStageAttempt := by
  intro s c hc hs h1 hl hcand
  obtain ⟨⟨⟨-, -, h64⟩, -⟩, -⟩ := hc
  rw [show exec .keygen s = keygenAttemptP (keygenAttempts s) (keygenTotal s) s from execKeygen_eq_attemptP hs h1 hl,
    keygenAttemptP, attemptCandidate_eq h1 (by unfold bitLength; omega) hcand]
  exact attempt_outcomes s.cfg c _ _ _ _

/-- A step of KEYGEN's second stage is an attempt with the candidate of its draw (R197). -/
theorem exec_keygen_secondStage {s : State} {w : Word} {p before total c : Nat} (hc : s.cfg.WF)
    (hp : s.unitB.phase = .busy w (.keyQ p before total)) (h1 : 1 ≤ bitLength s) (hl : bitLength s ≤ s.cfg.pkWidth / 2)
    (hcand : CandidateOf (bitLength s) s.entropy c) :
    exec .keygen s = if isPrime c then finishKeygen p c (total + 1) s
      else if LimitReached s.cfg (before + 1) then raiseError .b .exhausted (s.mapB (setAttempts (total + 1)))
      else stayBusy (.keyQ p (before + 1) (total + 1)) s := by
  obtain ⟨⟨⟨-, -, h64⟩, -⟩, -⟩ := hc
  rw [show exec .keygen s = keygenAttemptQ p before total s from execKeygen_eq_attemptQ hp,
    keygenAttemptQ, attemptCandidate_eq h1 (by omega) hcand]

/-- Settles O38: the two outcomes of an attempt for q whose candidate is no prime. -/
theorem keygenSecondStageFailedAttempt : Obligations.KeygenSecondStageFailedAttempt := by
  intro s w p before total c hc hp h1 hl hcand hnp
  rw [exec_keygen_secondStage hc hp h1 hl hcand]
  obtain ⟨-, hexhausted, hagain⟩ := attempt_outcomes s.cfg c _ _ _ _
  exact ⟨hexhausted hnp, hagain hnp⟩

/-- Settles O39: p and q are odd and have at most half the width, so the pair is derived and fits. -/
theorem keygenCompletesWithAKeyPair : Obligations.KeygenCompletesWithAKeyPair := by
  intro s w p before total q hc hp h1 hl hpp hodd hplt hcand hqp
  have ⟨⟨⟨_, h18, _⟩, _⟩, _⟩ := hc
  obtain ⟨n, phi, e, d, hderive, hpair, hn⟩ :=
    derive_keyPair h18 hl hplt hcand.1 hpp.one_lt hqp.one_lt hodd
  refine ⟨n, phi, e, d, hpair, hn, ?_⟩
  rw [exec_keygen_secondStage hc hp h1 hl hcand, if_pos ((isPrime_iff q).mpr hqp), finishKeygen, hderive]
  rfl

/-- Settles O36: a fresh search checks the bit length before its first attempt. -/
theorem searchWithBadLengthRaisesContract : Obligations.SearchWithBadLengthRaisesContract := by
  intro s w hp
  refine ⟨fun hl => ?_, fun hl => ?_⟩
  · show execGenprime s = _
    unfold execGenprime
    rw [hp]
    exact require_neg (by unfold bitLength; omega) ..
  · show execKeygen s = _
    unfold execKeygen
    rw [hp]
    exact require_neg (by unfold bitLength; omega) ..

end Sys2Proof.Machine
end

section
/-! MODEXP and the message commands over entries that have been written (42_pk_modexp_msg R240 to R246). -/

namespace Sys2Proof.Machine

open Sys2Proof

/-! ### The power -/

theorem execModexp_eq (s : State) :
    execModexp s =
      require (Fits s.unitB.x s.cfg.pkWidth ∧ Fits s.unitB.y s.cfg.pkWidth ∧ Fits s.unitB.m s.cfg.pkWidth ∧ s.unitB.m.toNat ≠ 0)
        .b .contract s (completeB (resultB (modexp s.unitB.x.toNat s.unitB.y.toNat s.unitB.m.toNat)) s) := by
  unfold execModexp
  rw [require_require (p := Fits s.unitB.m _), require_require (p := Fits s.unitB.y _), require_require]

/-- A power modulo a register fits a register. -/
theorem toNat_reg64_modexp (b x : Nat) {n : Word} (h : n.toNat ≠ 0) : (reg64 (modexp b x n.toNat)).toNat = b ^ x % n.toNat := by
  rw [modexp_eq, toNat_reg64 ((Nat.mod_lt _ (Nat.pos_of_ne_zero h)).trans n.isLt)]

/-- Settles O34: square and multiply gives the exact power, which is below the modulus and so fits the register. -/
theorem modexpWritesThePower : Obligations.ModexpWritesThePower := fun s =>
  ⟨rfl, fun h@⟨_, _, _, h0⟩ => ⟨_, (execModexp_eq s).trans (require_pos h ..), toNat_reg64_modexp _ _ h0⟩,
    fun h => (execModexp_eq s).trans (require_neg h ..)⟩

/-! ### A message that has been written -/

/-- The message with each element raised to the exponent modulo n (R242, R243). -/
def messagePowers (x n : Nat) (ms : List Word) : List Word := ms.map fun v => reg64 (modexp v.toNat x n)

@[simp] theorem messagePowers_length (x n : Nat) (ms : List Word) : (messagePowers x n ms).length = ms.length := List.length_map _

theorem toNat_getElem_messagePowers (x : Nat) {n : Word} (h : n.toNat ≠ 0) {ms : List Word} {k : Nat} (hk : k < ms.length) :
    ((messagePowers x n.toNat ms)[k]'(by simpa using hk)).toNat = ms[k].toNat ^ x % n.toNat := by
  simp only [messagePowers, List.getElem_map, toNat_reg64_modexp _ _ h]

theorem messagePowers_lt (x : Nat) {n : Word} (h : n.toNat ≠ 0) (ms : List Word) :
    ∀ m ∈ messagePowers x n.toNat ms, m.toNat < n.toNat := by
  intro m hm
  obtain ⟨v, -, rfl⟩ := List.mem_map.mp hm
  rw [toNat_reg64_modexp _ _ h]
  exact Nat.mod_lt _ (Nat.pos_of_ne_zero h)

/-- A read of the whole message gives its elements and changes nothing (10_state R41, R42). -/
theorem readEntries_message {s : State} {ms : List Word} (h : MessageIs s ms) : readEntries s.unitB.msgLen.toNat 0 s = (ms, s) := by
  obtain ⟨hl, hread⟩ := h
  rw [← hl]
  exact readEntries_written ms fun i hi => by rw [Nat.zero_add]; exact hread i hi

/-- The loops over a written message: the width of every element, then its range under RANGE_CHECK, then the powers (R242, R243). -/
theorem transformEntries_message {s : State} {ms : List Word} (h : MessageIs s ms) (x n : Nat) :
    transformEntries x n s.unitB.msgLen.toNat s =
      require (∀ m ∈ ms, Fits m s.cfg.pkWidth) .b .contract s
        (require (s.cfg.rangeCheck = true → ∀ m ∈ ms, m.toNat < n) .b .range s
          (completeB id (storeEntries (messagePowers x n ms) s))) := by
  rw [transformEntries]
  cases hr : s.cfg.rangeCheck <;>
    simp [readEntries_message h, require, allFit, allBelow, messagePowers]

/-- A message command whose checks all pass writes the powers of the elements over them. -/
theorem exec_message_completes {i : Instr} {s : State} {x : Word} {ms : List Word} (hi : MessageExponent i s x)
    (hkey : MessageKeyOk s x) (hms : MessageIs s ms) (hfit : ∀ m ∈ ms, Fits m s.cfg.pkWidth)
    (hrange : s.cfg.rangeCheck = true → ∀ m ∈ ms, m.toNat < s.unitB.n.toNat) :
    exec i s = .next (okB { s with mem := s.mem.writeEntries 0 (messagePowers x.toNat s.unitB.n.toNat ms) } s.unitB) := by
  rw [exec_message_of_keyOk hi hkey, transformEntries_message hms, require_pos hfit, require_pos hrange]
  rfl

/-- Settles O42: the command writes the list of powers over the message, and no byte outside it. -/
theorem messageCommandsTransformInPlace : Obligations.MessageCommandsTransformInPlace := by
  intro i s x ms hi hkey hms hwf hfit hrange
  have ⟨_, _, h0, _⟩ := hkey
  refine ⟨_, exec_message_completes hi hkey hms hfit hrange, fun k hk => ?_, fun b hb => ?_⟩
  · have hread := readWord_writeEntries s.mem 0 k (messagePowers x.toNat s.unitB.n.toNat ms) hwf (by simpa using hk)
    rw [Nat.zero_add] at hread
    exact ⟨_, hread, toNat_getElem_messagePowers _ h0 hk⟩
  · exact readByte_writeEntries_outside _ _ _ _ hwf (by rwa [messagePowers_length, Nat.zero_add])

theorem exec_eq_transformMessage {i : Instr} {s : State} {x : Word} (hi : MessageExponent i s x) :
    exec i s = transformMessage x s := by
  rcases hi with ⟨rfl, rfl⟩ | ⟨rfl, rfl⟩ <;> rfl

/-- The checks before the elements all raise CONTRACT (R242, R243). -/
theorem exec_message_of_not_keyOk {i : Instr} {s : State} {x : Word} (hi : MessageExponent i s x) (h : ¬MessageKeyOk s x) :
    exec i s = .next (errB s .contract) := by
  rw [exec_eq_transformMessage hi, transformMessage, require_require, require_require]
  exact require_neg (fun ⟨⟨hx, hn, h0⟩, hd⟩ => h ⟨hx, hn, h0, hd⟩) ..

/-- Settles O43: the checks on the key, then the width of every element, then its range. -/
theorem messageCommandErrors : Obligations.MessageCommandErrors := by
  refine fun i s x hi => ⟨exec_message_of_not_keyOk hi, fun ms hkey hms => ?_⟩
  rw [exec_message_of_keyOk hi hkey, transformEntries_message hms]
  refine ⟨fun ⟨m, hm, hwide⟩ => require_neg (fun h => hwide (h m hm)) .., fun hfit hr ⟨m, hm, hge⟩ => ?_⟩
  rw [require_pos hfit]
  exact require_neg (fun h => hge.not_gt (h hr m hm)) ..

end Sys2Proof.Machine
end

section
/-! ENCMSG and then DECMSG with a generated key pair (42_pk_modexp_msg R244). -/

namespace Sys2Proof.Machine

open Sys2Proof

/-! ### The key pair of a KEYGEN that has completed -/

/-- An attempt of KEYGEN's first stage ends in an error or leaves the unit Busy (R197). -/
theorem keygenAttemptP_not_completed {before total : Nat} {s t : State} (h : keygenAttemptP before total s = .next t)
    (hidle : t.unitB.phase = .idle) : t.unitB.status.err ≠ none := by
  unfold keygenAttemptP at h
  split_ifs at h
  · cases h; cases hidle
  · cases h; exact nofun
  · cases h; cases hidle

/-- A KEYGEN step that completes without error is the attempt of the second stage that draws a prime (R197). -/
theorem execKeygen_completed {s t : State} (h : execKeygen s = .next t) (hidle : t.unitB.phase = .idle)
    (herr : t.unitB.status.err = none) :
    ∃ w p before total, s.unitB.phase = .busy w (.keyQ p before total) ∧ isPrime (attemptCandidate s) = true := by
  unfold execKeygen at h
  split at h
  next => exact absurd herr (keygenAttemptP_not_completed h hidle)
  next w p before total hp =>
    refine ⟨w, p, before, total, hp, ?_⟩
    by_contra hc
    rw [keygenAttemptQ, if_neg hc] at h
    split_ifs at h
    · cases h; cases herr
    · cases h; cases hidle
  next =>
    rw [require] at h
    split_ifs at h
    · exact absurd herr (keygenAttemptP_not_completed h hidle)
    · cases h; cases herr

/-- The decryption exponent is below phi and so below n (R199). -/
theorem KeyPairOf.d_lt_n {w p q n phi e d : Nat} (h : KeyPairOf w p q n phi e d) : d < n := by
  obtain ⟨rfl, rfl, -, -, hd, -⟩ := h
  exact hd.trans_le (Nat.mul_le_mul (Nat.sub_le _ _) (Nat.sub_le _ _))

/-- After a KEYGEN that completed without error the key registers hold the key pair of two primes, and every part of it fits
(R196 to R199). -/
theorem keygen_completed_keyPair {s t : State} (hinv : EngineInv s) (h : exec .keygen s = .next t) (hidle : t.unitB.phase = .idle)
    (herr : t.unitB.status.err = none) :
    ∃ p q phi, Nat.Prime p ∧ Nat.Prime q ∧ t.unitB.p = BitVec.ofNat 64 p ∧ t.unitB.q = BitVec.ofNat 64 q ∧
      KeyPairOf s.cfg.pkWidth p q t.unitB.n.toNat phi t.unitB.e.toNat t.unitB.d.toNat ∧ t.unitB.n.toNat < 2 ^ s.cfg.pkWidth := by
  obtain ⟨w, p, before, total, hp, hq⟩ := execKeygen_completed h hidle herr
  have hsearch := hinv.search
  simp only [SearchOk, hp] at hsearch
  obtain ⟨-, h1, hl, hpp, -, hplt, hodd, -, -⟩ := hsearch
  have ⟨⟨⟨_, _, h64⟩, _⟩, _⟩ := hinv.config
  have hw : 2 ^ s.cfg.pkWidth ≤ 2 ^ 64 := Nat.pow_le_pow_right (by decide) h64
  have hqp := prime_of_isPrime hq
  obtain ⟨n, phi, e, d, hpair, hn, hexec⟩ := keygenCompletesWithAKeyPair s w p before total _ hinv.config hp h1 hl hpp hodd hplt
    (candidate_candidateOf _ s.entropy h1 (by omega)) hqp
  cases h.symm.trans hexec
  have ⟨_, _, ⟨_, _, he, _⟩, _⟩ := hpair
  refine ⟨p, _, phi, hpp, hqp, rfl, rfl, ?_⟩
  show KeyPairOf _ _ _ (reg64 n).toNat _ (reg64 e).toNat (reg64 d).toNat ∧ (reg64 n).toNat < _
  rw [toNat_reg64 (hn.trans_le hw), toNat_reg64 (he.trans_le hw), toNat_reg64 ((hpair.d_lt_n.trans hn).trans_le hw)]
  exact ⟨hpair, hn⟩

/-! ### The exponents undo each other -/

/-- For distinct primes an exponent that is 1 modulo (p-1)(q-1) is the identity below p*q, multiples of p and q included:
Fermat's theorem for each prime, and the two together. -/
theorem pow_mod_mul_of_primes {p q m k : Nat} (hp : Nat.Prime p) (hq : Nat.Prime q) (hne : p ≠ q)
    (hk : k % ((p - 1) * (q - 1)) = 1) (hm : m < p * q) : m ^ k % (p * q) = m := by
  have hpos : 1 ≤ k := Nat.pos_of_ne_zero (by rintro rfl; simp at hk)
  have hdvd := Nat.dvd_sub_mod (n := (p - 1) * (q - 1)) k
  rw [hk] at hdvd
  have hmod {r : Nat} (hr : Nat.Prime r) (hd : r - 1 ∣ (p - 1) * (q - 1)) : m ^ k ≡ m [MOD r] := by
    simpa [← Int.natCast_modEq_iff] using Int.ModEq.pow_eq_pow hr (hd.trans hdvd) hpos one_pos m
  have hboth : m ^ k ≡ m [MOD p * q] :=
    (Nat.modEq_and_modEq_iff_modEq_mul ((Nat.coprime_primes hp hq).mpr hne)).mp
      ⟨hmod hp (dvd_mul_right _ _), hmod hq (dvd_mul_left _ _)⟩
  exact Nat.mod_eq_of_modEq hboth hm

/-- Powers with the two exponents of a key pair of distinct primes give back a message below the modulus (R244). -/
theorem messagePowers_messagePowers {w p q phi e d : Nat} {n : Word} (hp : Nat.Prime p) (hq : Nat.Prime q) (hne : p ≠ q)
    (hkey : KeyPairOf w p q n.toNat phi e d) {ms : List Word} (hms : ∀ m ∈ ms, m.toNat < n.toNat) :
    messagePowers d n.toNat (messagePowers e n.toNat ms) = ms := by
  obtain ⟨hn, rfl, -, -, -, hinv⟩ := hkey
  have h0 : n.toNat ≠ 0 := hn ▸ Nat.mul_ne_zero hp.ne_zero hq.ne_zero
  rw [messagePowers, messagePowers, List.map_map]
  refine (List.map_congr_left fun m hm => BitVec.eq_of_toNat_eq ?_).trans (List.map_id ms)
  show (reg64 (modexp (reg64 (modexp m.toNat e n.toNat)).toNat d n.toNat)).toNat = m.toNat
  rw [toNat_reg64_modexp _ _ h0, toNat_reg64_modexp _ _ h0, ← Nat.pow_mod, ← pow_mul, mul_comm e d, hn]
  exact pow_mod_mul_of_primes hp hq hne hinv (hn ▸ hms m hm)

/-! ### The two commands -/

/-- A message command on a message below the modulus keeps the configuration and the registers and leaves the powers as the message,
whether RANGE_CHECK is set or not. -/
theorem exec_message_of_below {i : Instr} {s : State} {x : Word} {ms : List Word} (hi : MessageExponent i s x)
    (hkey : MessageKeyOk s x) (hms : MessageIs s ms) (hwf : s.mem.wf) (hlt : ∀ m ∈ ms, m.toNat < s.unitB.n.toNat) :
    ∃ mem', exec i s = .next (okB { s with mem := mem' } s.unitB) ∧ mem'.wf ∧
      MessageIs (okB { s with mem := mem' } s.unitB) (messagePowers x.toNat s.unitB.n.toNat ms) := by
  have ⟨_, hn, _, _⟩ := hkey
  refine ⟨_, exec_message_completes hi hkey hms (fun m hm => (hlt m hm).trans hn) fun _ => hlt, writeEntries_wf _ _ _ hwf,
    (messagePowers_length _ _ _).trans hms.1, fun k hk => ?_⟩
  have hread := readWord_writeEntries s.mem 0 k (messagePowers x.toNat s.unitB.n.toNat ms) hwf hk
  rwa [Nat.zero_add] at hread

/-- Settles O45: the key pair passes the checks of both commands, the powers ENCMSG leaves are below B_N, and the exponents undo each
other. -/
theorem messageRoundTrip : Obligations.MessageRoundTrip := by
  intro s0 t0 s ms hinv hkeygen hidle herr hpq hcfg hn he hd hwf hms hdepth hlt
  obtain ⟨p, q, phi, hp, hq, htp, htq, hpair, hnw⟩ := keygen_completed_keyPair hinv hkeygen hidle herr
  rw [← hcfg, ← hn, ← he, ← hd] at hpair
  rw [← hcfg, ← hn] at hnw
  have hne : p ≠ q := by rintro rfl; exact hpq (htp.trans htq.symm)
  have ⟨_, _, ⟨_, _, hew, _⟩, _⟩ := hpair
  have hdn := hpair.d_lt_n
  have hkey {x : Word} (hx : x.toNat < 2 ^ s.cfg.pkWidth) : MessageKeyOk s x := ⟨hx, hnw, by omega, hms.1 ▸ hdepth⟩
  obtain ⟨mem1, henc, hwf1, hms1⟩ := exec_message_of_below (i := .encmsg) (.inl ⟨rfl, rfl⟩) (hkey hew) hms hwf hlt
  obtain ⟨mem2, hdec, -, hms2⟩ := exec_message_of_below (s := okB { s with mem := mem1 } s.unitB) (i := .decmsg) (.inr ⟨rfl, rfl⟩)
    (hkey (hdn.trans hnw)) hms1 hwf1 (messagePowers_lt _ (by omega) ms)
  have hback := messagePowers_messagePowers hp hq hne hpair hlt
  exact ⟨_, _, henc, hdec, (congrArg (MessageIs _) hback).mp hms2, rfl, rfl⟩

end Sys2Proof.Machine
end

section
/-! Errors (60_exceptions R280 to R290): a word that is not defined raises ILLEGAL, and a command that ends with an error raises a code of
its own list and changes nothing but STATUS, the phase and a search's count. -/

namespace Sys2Proof.Machine

open Sys2Proof

/-! ### A word that is not defined -/

theorem decode_of_illegalWord {u : UnitId} {w : Word} (h : IllegalWord u w) : ∃ r, decode u w = .error r := by
  by_cases hr : w.toNat / 2 ^ 11 = 0
  · have hfields := h.resolve_left (not_not.mpr hr)
    cases hd : decode u w with
    | error r => exact ⟨r, rfl⟩
    | ok i =>
      cases hd ▸ decode_answer u hr with
      | command i ho hs => exact absurd hfields (not_or.mpr ⟨not_not.mpr ho, not_not.mpr hs⟩)
  · exact ⟨_, decode_of_reserved hr⟩

theorem runWord_of_illegalWord {u : UnitId} {w : Word} (h : IllegalWord u w) (s : State) :
    runWord u w s = raiseError u .illegal s := by
  obtain ⟨r, hr⟩ := decode_of_illegalWord h
  rw [runWord, hr]

/-- Settles O4: no table decodes the word, so the turn of the unit raises ILLEGAL. -/
theorem illegalWordRaisesIllegal : Obligations.IllegalWordRaisesIllegal := by
  refine fun s rest w => ⟨fun hs hp hw => ?_, fun r search hs hp hw => ?_⟩
  · rw [step_of_sched hs]
    simp only [takeTurn, unitATurn, hp]
    rw [runWord_of_illegalWord hw, raiseError_a]
  · rw [step_of_sched hs]
    simp only [takeTurn, unitBTurn, hp]
    rw [runWord_of_illegalWord hw, raiseError_b]

/-! ### A command that ends with an error -/

/-- A Unit A command that ends with an error has raised CONTRACT (40_block_cipher R131). -/
theorem exec_unitA_error {i : Instr} {s t : State} {c : ErrCode} (h : exec i s = .next t) (hu : i.unit = .a)
    (herr : t.unitA.status.err = some c) : c = .contract ∧ t = errA s c := by
  rcases exec_unitA_cases i s hu with ⟨res, k1, k2, e⟩ | e
  · cases h.symm.trans e
    cases herr
  · cases h.symm.trans e
    cases herr
    exact ⟨rfl, rfl⟩

/-- The errors a Unit B command can end with: the code, the commands that raise it, and all that changes (60_exceptions R280, R284). -/
inductive UnitBError (i : Instr) (s : State) : ErrCode → State → Prop
  | contract : UnitBError i s .contract (errB s .contract)
  | noInverse (hi : i = .modinv) : UnitBError i s .noInverse (errB s .noInverse)
  | search (c : ErrCode) (n : Nat) (hc : c = .contract ∨ c = .exhausted) (hi : i = .genprime ∨ i = .keygen) :
      UnitBError i s c (errB (s.mapB (setAttempts n)) c)
  | message (c : ErrCode) (k : Nat) (hc : c = .contract ∨ c = .range ∧ s.cfg.rangeCheck = true) (hi : i = .encmsg ∨ i = .decmsg) :
      UnitBError i s c (errB { s with freeCount := k } c)

/-- The other outcomes leave the unit Busy or ERR at 0. -/
theorem UnitBOutcome.error {i : Instr} {s t : State} {c : ErrCode} (h : UnitBOutcome i s t) (hidle : t.unitB.phase = .idle)
    (herr : t.unitB.status.err = some c) : UnitBError i s c t := by
  cases h with
  | failed c' hc =>
    cases herr
    rcases hc with rfl | ⟨rfl, hi⟩
    · exact .contract
    · exact .noInverse hi
  | searchFailed c' n hc hi => cases herr; exact .search _ n hc hi
  | messageFailed c' k hc hi => cases herr; exact .message _ k hc hi
  | busy => cases hidle
  | result | bezout | prime | pair | message => cases herr

theorem exec_unitB_error {i : Instr} {s t : State} {c : ErrCode} (h : exec i s = .next t) (hu : i.unit = .b)
    (hidle : t.unitB.phase = .idle) (herr : t.unitB.status.err = some c) : UnitBError i s c t := by
  obtain ⟨t', e, ht'⟩ := exec_unitB_outcome i s hu
  cases h.symm.trans e
  exact ht'.error hidle herr

/-- Settles O46: an error comes before any write but that of B_ATTEMPTS, and the reads of a message use up free values only. -/
theorem errorsArePrecise : Obligations.ErrorsArePrecise := by
  refine fun i s t c h => ⟨fun hu herr => (exec_unitA_error h hu herr).2, fun hu hidle herr => ?_⟩
  cases exec_unitB_error h hu hidle herr with
  | contract | noInverse => exact ⟨s.unitB.attempts, s.freeCount, fun _ _ => rfl, rfl⟩
  | search _ n _ hi => exact ⟨saturate64 n, s.freeCount, fun hg hk => (hi.elim hg hk).elim, rfl⟩
  | message _ k => exact ⟨s.unitB.attempts, k, fun _ _ => rfl, rfl⟩

/-- Settles O47: the list of errors of each unit's commands. -/
theorem whoRaisesWhichCode : Obligations.WhoRaisesWhichCode := by
  refine fun i s t c h => ⟨fun hu herr => (exec_unitA_error h hu herr).1, fun hu hidle herr => ?_⟩
  cases exec_unitB_error h hu hidle herr with
  | contract => exact .inl rfl
  | noInverse hi => exact .inr (.inl ⟨rfl, hi⟩)
  | search _ _ hc hi =>
    rcases hc with rfl | rfl
    · exact .inl rfl
    · exact .inr (.inr (.inl ⟨rfl, hi⟩))
  | message _ _ hc hi =>
    rcases hc with rfl | ⟨rfl, hr⟩
    · exact .inl rfl
    · exact .inr (.inr (.inr ⟨rfl, hi, hr⟩))

end Sys2Proof.Machine
end

section
/-! Reset, the turn of a Busy unit, and the completion of the commands of one step (70_reset_and_hazards R310 to R314, R322, R323). -/

namespace Sys2Proof.Machine

open Sys2Proof

/-! ### One unit step completes a command -/

theorem exec_unitA_completes {i : Instr} {s t : State} (hu : i.unit = .a) (h : exec i s = .next t) :
    t.unitA.phase = .idle ∧ t.unitA.status.done = true := by
  rcases exec_unitA_cases i s hu with ⟨res, k1, k2, e⟩ | e
  · cases h.symm.trans e
    exact ⟨rfl, rfl⟩
  · cases h.symm.trans e
    exact ⟨rfl, rfl⟩

/-- Only a failed attempt of a search leaves the unit Busy (41_pk_primes_keys R187). -/
theorem UnitBOutcome.completes {i : Instr} {s t : State} (h : UnitBOutcome i s t) (hg : i ≠ .genprime) (hk : i ≠ .keygen) :
    t.unitB.phase = .idle ∧ t.unitB.status.done = true := by
  cases h with
  | busy _ hi => exact absurd hi (not_or.mpr ⟨hg, hk⟩)
  | failed | searchFailed | messageFailed | result | bezout | prime | pair | message => exact ⟨rfl, rfl⟩

/-- Settles O41: a command of either unit answers a next state, and the searches alone have an outcome that is not a completion. -/
theorem oneStepCommandsComplete : Obligations.OneStepCommandsComplete := by
  intro i s hg hk
  obtain ⟨t, ht⟩ := exec_answers_next i s
  exact ⟨t, ht, fun hu => exec_unitA_completes hu ht, fun hu => (exec_b_outcome hu ht).completes hg hk⟩

/-! ### The turn of a Busy unit -/

theorem runWord_of_decode {u : UnitId} {w : Word} {i : Instr} (h : decode u w = .ok i) (s : State) : runWord u w s = exec i s := by
  rw [runWord, h]

/-- Settles O5: the turn of a Busy unit runs its latched word. -/
theorem stepRunsTheDecodedCommand : Obligations.StepRunsTheDecodedCommand := by
  refine fun s rest w i => ⟨fun hs hp hd => ?_, fun r search hs hp hd => ?_⟩
  · rw [step_of_sched hs, ← runWord_of_decode hd]
    simp only [takeTurn, unitATurn, hp]
  · rw [step_of_sched hs, ← runWord_of_decode hd]
    simp only [takeTurn, unitBTurn, hp]

/-! ### Reset -/

theorem statusWord_reset : Status.reset.word false = 0 := by decide

theorem regValue_resetBlock {r : Reg} (h : r ≠ .info) (s : State) : regValue r (resetBlock s) = 0 := by
  cases r with
  | info => exact absurd rfl h
  | aStatus | bStatus => exact statusWord_reset
  | aCmd | aKey | aSrc | aSubkey | aRes | aK1 | aK2 | bCmd | bX | bY | bM | bL | bRes | bRes2 | bRes3 | bMsgLen | bN | bE | bD | bP
  | bQ | bPhi | bAttempts => rfl

@[simp] theorem readWord_nil (a : Nat) : Memory.readWord [] a = none := rfl

/-- Settles O7: a reset turn is `resetBlock`, which sets both units to their reset values and empties the buffer. -/
theorem resetEventClearsTheBlock : Obligations.ResetEventClearsTheBlock := by
  intro s rest hs
  exact ⟨resetBlock { s with sched := rest }, step_of_sched hs, fun _ hr => regValue_resetBlock hr _, rfl, rfl, rfl,
    fun _ => readWord_nil _, rfl⟩

/-- Power-on reset leaves nothing for a reset event to clear. -/
theorem resetBlock_reset : resetBlock State.reset = State.reset := rfl

/-- Settles O8: the registers are those a reset event leaves, and INFO is the default configuration's (10_state R33). -/
theorem resetStateIsTheSpecs : Obligations.ResetStateIsTheSpecs :=
  ⟨fun _ hr => resetBlock_reset ▸ regValue_resetBlock hr State.reset, rfl, rfl, fun _ => readWord_nil _, by decide⟩

/-- Settles O14: the default configuration is legal, and each part of the invariant holds of its reset value. -/
theorem invariantHoldsAtReset : Obligations.InvariantHoldsAtReset :=
  (engineInv_iff State.reset).mpr ⟨by decide, bufferInv_nil _, unitAInv_reset, unitBInv_reset _⟩

end Sys2Proof.Machine
end

section
/-! A turn of an Idle unit passes: no unit step is enabled (70_reset_and_hazards R322), and only Unit B's turn brings a value to the
entropy input (log 3, 4). -/

namespace Sys2Proof.Machine

open Sys2Proof

theorem unitATurn_of_idle {s : State} (h : s.unitA.phase = .idle) : unitATurn s = .next s := by
  simp only [unitATurn, h]

theorem unitBTurn_of_idle {s : State} (h : s.unitB.phase = .idle) (r : Word) : unitBTurn r s = .next { s with entropy := r } := by
  simp only [unitBTurn, h]

/-- Settles O6: taking a turn off the list leaves both phases, so the turn of an Idle unit passes. -/
theorem idleUnitTakesNoStep : Obligations.IdleUnitTakesNoStep := by
  intro s rest
  constructor
  · intro hs hp
    exact (step_of_sched hs).trans (unitATurn_of_idle (s := { s with sched := rest }) hp)
  · intro r hs hp
    exact (step_of_sched hs).trans (unitBTurn_of_idle (s := { s with sched := rest }) hp r)

end Sys2Proof.Machine
end
